-- ==== Sys2Proof/Word.lean ====
section
/-! DEFINITION. The engine's word types (00_scope R11, 10_state R41, R42, R46). -/

namespace Sys2Proof

/-- 16 bits: a request argument, a response, a frame, the shift registers `SR` and `ACC` (R41, R42, R46, R100). -/
abbrev Word := BitVec 16

/-- A level on a line, `false` = 0 = low, `true` = 1 = high (R11). -/
abbrev Level := Bool

end Sys2Proof
end

