-- ==== Sys2Proof/Config.lean ====
section
/-! DEFINITION. What is fixed for the hardware, and its one free value (00_scope R7).
The literals of the timing table stand in Machine/Timing.lean. -/

namespace Sys2Proof

/-- The record of the ten named minimum delays, in microseconds (R120, R134). -/
structure TimingTable where
  resetDelay : Nat
  vppLeadTime : Nat
  inputSetTime : Nat
  holdActivationTime : Nat
  exitDelay : Nat
  programmingTime : Nat
  programmingEndTime : Nat
  eraseTime : Nat
  clockCycleDelay : Nat
  commandDelay : Nat
  deriving DecidableEq, Repr

namespace Config

/-- `CMD_BITS`: bits per wire command (R7). -/
abbrev CMD_BITS : Nat := 6

/-- `FRAME_BITS`: bits per data transfer (R7). -/
abbrev FRAME_BITS : Nat := 16

/-- `LOC_W` of this hardware, the default (R7, D8): the width of `location`. Every statement holds for any other width. -/
abbrev LOC_W : Nat := 16

/-- `EXIT_PM_GUARDED` of this hardware (R7, D13). -/
abbrev exitPmGuarded : Bool := false

/-- DESIGN CHOICE (log entry 1): the `memoryLength` with which `State.reset` is constructed. The spec leaves
the parameter OPEN (R7); 8192 is its only example (95 X7). No statement rests on it. -/
abbrev resetMemoryLength : Nat := 8192

/-- The level the environment answers to the `n`-th `RD(DAT)` where no list of answers is given.
A free value (R62, U7; log entry 4): it has no body. -/
opaque freeDatLevel : Nat → Level

end Config
end Sys2Proof
end

