-- ==== Sys2Proof/Syntax.lean ====
section
/-! DEFINITION. The instructions: one constructor per row of spec/opcode_table.json (30_encoding R108),
the six members of `CMDSEL` (10_state R44), and an encoded instruction as it stands on its channel. -/

namespace Sys2Proof

/-- The select input of the command encoder's multiplexer (R44, R161). -/
inductive CmdSel where
  | loadDataPm
  | readDataPm
  | incAddr
  | beginProg
  | bulkErase
  | endProg
  deriving DecidableEq, Repr

/-- The fifteen rows. `ignored` holds the request's ignored argument bits (R103): they have no effect, and are
kept so that each request word is one instruction. The last six are the wire commands, without operand (R91). -/
inductive Instr where
  | setPowerTrue (ignored : BitVec 15)
  | setPowerFalse (ignored : BitVec 15)
  | setProgrammingModeTrue (ignored : BitVec 15)
  | setProgrammingModeFalse (ignored : BitVec 15)
  | incAddress (ignored : BitVec 16)
  | readWord (includeFraming : Bool) (ignored : BitVec 15)
  | writeWord (w : Word)
  | burn (ignored : BitVec 16)
  | erase (ignored : BitVec 16)
  | loadDataPm
  | readDataPm
  | incAddr
  | beginProg
  | bulkErase
  | endProg
  deriving DecidableEq, Repr

/-- An encoded instruction: a `HOSTREQ20` word at the request port (R100) or an `ICSPCMD6` opcode at the
command encoder (R91). -/
inductive Raw where
  | request (r : BitVec 20)
  | command (c : BitVec 6)
  deriving DecidableEq, Repr

end Sys2Proof
end

