-- ==== Sys2Proof/Machine/Primitives.lean ====
section
/-! DEFINITION. The vocabulary of the step lists: lines, events of the trace (00_scope R12, R13), and the statements
of the pseudocode (R13) as data, so that the sequencer's `SEQ` can hold what is left of an operation (10_state R40). -/

namespace Sys2Proof.Machine

/-- The two lines that have a direction (R12). -/
inductive BusLine where
  | clk
  | dat
  deriving DecidableEq, Repr

/-- The four signals (R33). -/
inductive Line where
  | vdd
  | vpp
  | clk
  | dat
  deriving DecidableEq, Repr

/-- Directions; `inp` and `out` are the spec's `in` and `out` (R11). -/
inductive Dir where
  | inp
  | out
  deriving DecidableEq, Repr

/-- The events of the trace: the four primitives, `RD(DAT)` with the level it returned (R12, R13). -/
inductive Event where
  | dir (l : BusLine) (d : Dir)
  | wr (l : Line) (v : Level)
  | rd (v : Level)
  | dly (n : Nat)
  deriving DecidableEq, Repr

/-- The statements without control flow: the primitives and the register assignments (R13). -/
inductive Prim where
  /-- `DIR(l, d)`. -/
  | dir (l : BusLine) (d : Dir)
  /-- `WR(l, v)`. -/
  | wr (l : Line) (v : Level)
  /-- `DLY(n)`. -/
  | dly (n : Nat)
  /-- `CMDSEL <- c` (R44). -/
  | select (c : CmdSel)
  /-- `SR <- v` (R141). -/
  | loadSr (v : Word)
  /-- `WR(DAT, SR[0])` (R141). -/
  | presentBit
  /-- `SR <- SR >> 1` (R141). -/
  | shiftSr
  /-- `ACC <- 0` (R143). -/
  | clearAcc
  /-- `b <- RD(DAT); ACC <- (ACC >> 1) | (b << 15)` (R143). -/
  | sampleBit
  /-- `BITCNT <- n` (R43). -/
  | loadBitcnt (n : Nat)
  /-- `BITCNT <- BITCNT - 1` (R43, R215). -/
  | countBit
  /-- `S.hasPower <- v`. -/
  | setHasPower (v : Bool)
  /-- `S.inProgrammingMode <- v`. -/
  | setInProgrammingMode (v : Bool)
  /-- `S.location <- -1` (R186). -/
  | resetLocation
  /-- `S.location <- (S.location + 1) mod memoryLength` (R211). -/
  | advanceLocation
  deriving DecidableEq, Repr

/-- The tests the pseudocode makes; there are no others (R191). -/
inductive Cond where
  | inProgrammingMode
  | notInProgrammingMode
  | hasPower
  | notHasPower
  | guardedAndNotInProgrammingMode
  deriving DecidableEq, Repr

/-- What an operation returns (R105, R252, R253). -/
inductive Reply where
  /-- `return fail`: `ok = 0`, `data = 0xFFFF`. -/
  | fail
  /-- `return ok(0x0000)`. -/
  | done
  /-- `return ok(raw)`, `raw` the value of `ACC`. -/
  | raw
  /-- `return ok((raw >> 1) & 0x3FFF)`. -/
  | deframed
  deriving DecidableEq, Repr

/-- One item of a host operation's step list (R13, R191). -/
inductive Item where
  | prim (p : Prim)
  /-- `call issueCommand(opcode)`, the opcode being the one `c` selects (R160). -/
  | command (c : CmdSel)
  /-- `if c then body`. -/
  | whenDo (c : Cond) (body : List Prim)
  /-- `if c then return r`. -/
  | returnWhen (c : Cond) (r : Reply)
  /-- `return r`. -/
  | ret (r : Reply)
  deriving DecidableEq, Repr

end Sys2Proof.Machine
end

