-- ==== Sys2Proof/WellFormed.lean ====
section
/-! DEFINITION. The checks: on an encoded instruction, and on the parameters of a construction.
A term of `Instr` has no ill-formed value (every field is a bit vector of the encoding's own width), so the
checks stand on what comes from outside: request words, opcodes, `memoryLength` and `LOC_W`. -/

namespace Sys2Proof

/-- The request's `op` is none of the reserved codes `0x0`, `0x8` to `0xF` (R102, R104). -/
abbrev requestAssigned (r : BitVec 20) : Bool :=
  decide (1 ≤ r.toNat / 65536 ∧ r.toNat / 65536 ≤ 7)

/-- The 6-bit value is one of the six opcodes (R99, R161). -/
abbrev commandAssigned (c : BitVec 6) : Bool :=
  [0x02#6, 0x04#6, 0x06#6, 0x08#6, 0x09#6, 0x0E#6].contains c

/-- Well-formedness of an encoded instruction. -/
def Raw.wellFormed : Raw → Bool
  | .request r => requestAssigned r
  | .command c => commandAssigned c

/-- `1 <= memoryLength <= 2^(LOC_W-1)`, for a register of at least one bit; a construction outside is refused (R7, R24,
D8, D9, U9). -/
abbrev memoryLengthOk (locW n : Nat) : Bool :=
  decide (1 ≤ locW ∧ 1 ≤ n ∧ n ≤ 2 ^ (locW - 1))

end Sys2Proof
end

