-- ==== Sys2Proof/Machine/State.lean ====
section
/-! DEFINITION. The machine's state (10_state.md), as plain data, its reset value (R50, 70 R290), and the reasons a
step can stop. -/

namespace Sys2Proof.Machine

/-- The Session (R20). `memoryLength` is its parameter: fixed at construction, written by no operation (R24).
`location` is "a signed integer" (R23) held in a two's-complement register of `LOC_W` bits (D8): the width is a parameter
(R7), so the type does not fix it, and what `incAddress` writes goes through `narrow`, which keeps `LOC_W` bits. -/
structure Session where
  hasPower : Bool
  inProgrammingMode : Bool
  location : Int
  memoryLength : Nat
  deriving DecidableEq, Repr

/-- The line state (R33 to R36): the rails' output levels, and direction and output latch of `CLK` and `DAT`. -/
structure Lines where
  outVDD : Level
  outVPP : Level
  dirCLK : Dir
  outCLK : Level
  dirDAT : Dir
  outDAT : Level
  deriving DecidableEq, Repr

/-- The datapath registers `SR`, `ACC`, `BITCNT`, `CMDSEL`, `DLYCNT` (R41 to R45). -/
structure Datapath where
  sr : Word
  acc : Word
  bitcnt : BitVec 5
  cmdsel : CmdSel
  dlycnt : BitVec 15
  deriving DecidableEq, Repr

/-- `BUSY`, and `SEQ` as what is left of the step list of the operation in progress (R40). -/
structure Sequencer where
  busy : Bool
  seq : List Item
  deriving DecidableEq, Repr

/-- The response registers; `pending` is `rsp_valid` (R46, R101). -/
structure Response where
  ok : Bool
  data : Word
  pending : Bool
  deriving DecidableEq, Repr

/-- The model's own fields: what is observed of the engine (R13, R296) and what the outside world has still to offer,
the host's request words (R100) and the levels that answer `RD(DAT)` (R62). Log entries 4, 5, 11. -/
structure Bench where
  /-- The events so far, oldest first. -/
  trace : List Event
  /-- The responses `(ok, data)` so far, oldest first. -/
  responses : List (Bool × Word)
  /-- The next answers to `RD(DAT)`; once it is empty an answer is the free value `Config.freeDatLevel`. -/
  datIn : List Level
  /-- How many times `RD(DAT)` has been performed: the index of the free value. -/
  samples : Nat
  /-- The request words the host has still to present, in order. -/
  requests : List (BitVec 20)
  deriving DecidableEq, Repr

/-- The parameters of R7 that a construction fixes beside `memoryLength`: `EXIT_PM_GUARDED` (R188, D13) and `LOC_W`, the
width of `location` (D8). No operation writes them and reset keeps them (R290). -/
structure Params where
  exitPmGuarded : Bool
  locW : Nat
  deriving DecidableEq, Repr

/-- Everything the spec gives the machine. -/
structure State where
  session : Session
  lines : Lines
  datapath : Datapath
  sequencer : Sequencer
  response : Response
  bench : Bench
  params : Params
  deriving DecidableEq, Repr

/-- No constructor: "this protocol intentionally never throws" (R256). No instruction raises a fault. -/
inductive Fault where
  deriving DecidableEq, Repr

/-- The reasons for a refusal. -/
inductive Refusal where
  /-- Raised by an arm of `exec` that has no meaning yet; safe. No arm of this model raises it. -/
  | notModelled (mnemonic : String)
  /-- Raised by the reset input in any state but idle and `Unpowered` (R293, U12: a model has no step for it); safe.
  No instruction and no `step` raises it. -/
  | resetOutsideIdleUnpowered
  deriving DecidableEq, Repr

/-- The line state of reset: rails low, lines inputs, latches 0 (R34 to R36, R50). -/
def Lines.reset : Lines :=
  { outVDD := false, outVPP := false, dirCLK := .inp, outCLK := false, dirDAT := .inp, outDAT := false }

/-- The state of construction and reset for given parameters (R27, R50, R290). -/
def State.initial (memoryLength : Nat) (params : Params) : State :=
  { session := { hasPower := false, inProgrammingMode := false, location := -1, memoryLength := memoryLength }
    lines := Lines.reset
    datapath := { sr := 0#16, acc := 0#16, bitcnt := 0#5, cmdsel := .loadDataPm, dlycnt := 0#15 }
    sequencer := { busy := false, seq := [] }
    response := { ok := false, data := 0x0000#16, pending := false }
    bench := { trace := [], responses := [], datIn := [], samples := 0, requests := [] }
    params := params }

/-- Construction of a Session for given parameters; refused unless `1 <= memoryLength <= 2^(LOC_W-1)` (R24, D9). -/
def State.construct (memoryLength : Nat) (params : Params) : Option State :=
  if memoryLengthOk params.locW memoryLength then some (State.initial memoryLength params) else none

/-- The parameters of this hardware (R7). -/
def Params.default : Params :=
  { exitPmGuarded := Config.exitPmGuarded, locW := Config.LOC_W }

/-- The machine right after reset (R50, R290). -/
def State.reset : State := State.initial Config.resetMemoryLength Params.default

end Sys2Proof.Machine
end

