-- ==== Sys2Proof/Machine/Flags.lean ====
section
/-! DEFINITION. The two status flags read as a mode (10_state R26, R48), the tests on them (43_power_mode R191), and
what the host may read of the Session (R30). There are no condition codes (R48). -/

namespace Sys2Proof.Machine

/-- The three named states (R26, R180). -/
inductive Mode where
  | unpowered
  | powered
  | programmingMode
  deriving DecidableEq, Repr

/-- The state the flags name; none for the excluded combination (R26). -/
def modeOf (s : Session) : Option Mode :=
  match s.hasPower, s.inProgrammingMode with
  | false, false => some .unpowered
  | true, false => some .powered
  | true, true => some .programmingMode
  | false, true => none

/-- A test of the pseudocode in a state (R191). -/
def condHolds (c : Cond) (s : State) : Bool :=
  match c with
  | .inProgrammingMode => s.session.inProgrammingMode
  | .notInProgrammingMode => !s.session.inProgrammingMode
  | .hasPower => s.session.hasPower
  | .notHasPower => !s.session.hasPower
  | .guardedAndNotInProgrammingMode => s.params.exitPmGuarded && !s.session.inProgrammingMode

/-- The host's read of `location`: its value in ProgrammingMode, refused (none) outside (R30, U2). -/
def observedLocation (s : State) : Option Int :=
  if s.session.inProgrammingMode then some s.session.location else none

end Sys2Proof.Machine
end

