-- ==== Sys2Proof/Decode.lean ====
section
/-! DEFINITION. The encodings of 30_encoding.md: the opcode multiplexer, the decoder (total, rejecting by name),
the encoder, the machine-readable table (R108), and the host's entry `decodeTableWord`. -/

namespace Sys2Proof

/-- Why an encoded instruction is no instruction. -/
inductive DecodeError where
  /-- A reserved host operation code (R104); the engine answers it with the failure response. -/
  | reservedRequest (op : BitVec 4)
  /-- None of the six opcodes (R99); the engine never emits it. -/
  | unassignedCommand (c : BitVec 6)
  deriving DecidableEq, Repr

/-- `op`, bits 19:16 of a request (R100). -/
def requestOp (r : BitVec 20) : BitVec 4 := r.extractLsb' 16 4

/-- `arg`, bits 15:0 of a request (R100). -/
def requestArg (r : BitVec 20) : Word := r.extractLsb' 0 16

/-- A boolean argument, `arg[0]` (R103). -/
def argFlag (arg : Word) : Bool := arg.getLsbD 0

/-- The ignored bits `arg[15:1]` beside a boolean argument (R103). -/
def argIgnored (arg : Word) : BitVec 15 := arg.extractLsb' 1 15

/-- The request decoder (R102, R103, R104). -/
def decodeRequest (r : BitVec 20) : Except DecodeError Instr :=
  let arg := requestArg r
  match (requestOp r).toNat with
  | 1 => .ok (if argFlag arg then .setPowerTrue (argIgnored arg) else .setPowerFalse (argIgnored arg))
  | 2 => .ok (if argFlag arg then .setProgrammingModeTrue (argIgnored arg)
              else .setProgrammingModeFalse (argIgnored arg))
  | 3 => .ok (.incAddress arg)
  | 4 => .ok (.readWord (argFlag arg) (argIgnored arg))
  | 5 => .ok (.writeWord arg)
  | 6 => .ok (.burn arg)
  | 7 => .ok (.erase arg)
  | _ => .error (.reservedRequest (requestOp r))

/-- The opcode multiplexer: the 6-bit constant that `CMDSEL` selects (R161). -/
def opcodeOf : CmdSel → BitVec 6
  | .loadDataPm => 0x02#6
  | .readDataPm => 0x04#6
  | .incAddr => 0x06#6
  | .beginProg => 0x08#6
  | .bulkErase => 0x09#6
  | .endProg => 0x0E#6

/-- The command that an opcode stands for, if it is one of the six (R99, R161). -/
def commandOf (c : BitVec 6) : Option CmdSel :=
  match c.toNat with
  | 0x02 => some .loadDataPm
  | 0x04 => some .readDataPm
  | 0x06 => some .incAddr
  | 0x08 => some .beginProg
  | 0x09 => some .bulkErase
  | 0x0E => some .endProg
  | _ => none

/-- A wire command as an instruction (R162 to R167). -/
def commandInstr : CmdSel → Instr
  | .loadDataPm => .loadDataPm
  | .readDataPm => .readDataPm
  | .incAddr => .incAddr
  | .beginProg => .beginProg
  | .bulkErase => .bulkErase
  | .endProg => .endProg

/-- The command decoder (R99, R161). -/
def decodeCommand (c : BitVec 6) : Except DecodeError Instr :=
  match commandOf c with
  | some sel => .ok (commandInstr sel)
  | none => .error (.unassignedCommand c)

/-- The decoder, on both channels. -/
def decode : Raw → Except DecodeError Instr
  | .request r => decodeRequest r
  | .command c => decodeCommand c

/-- The encoder: `{op[3:0], arg[15:0]}` for a request (R100, R102, R103), the opcode for a wire command (R161). -/
def encode : Instr → Raw
  | .setPowerTrue ig => .request (0x1#4 ++ ig ++ 1#1)
  | .setPowerFalse ig => .request (0x1#4 ++ ig ++ 0#1)
  | .setProgrammingModeTrue ig => .request (0x2#4 ++ ig ++ 1#1)
  | .setProgrammingModeFalse ig => .request (0x2#4 ++ ig ++ 0#1)
  | .incAddress ig => .request (0x3#4 ++ ig)
  | .readWord f ig => .request (0x4#4 ++ ig ++ BitVec.ofBool f)
  | .writeWord w => .request (0x5#4 ++ w)
  | .burn ig => .request (0x6#4 ++ ig)
  | .erase ig => .request (0x7#4 ++ ig)
  | .loadDataPm => .command (opcodeOf .loadDataPm)
  | .readDataPm => .command (opcodeOf .readDataPm)
  | .incAddr => .command (opcodeOf .incAddr)
  | .beginProg => .command (opcodeOf .beginProg)
  | .bulkErase => .command (opcodeOf .bulkErase)
  | .endProg => .command (opcodeOf .endProg)

/-- One row of spec/opcode_table.json: the width of the format, and the mask and pattern (R108). -/
structure OpcodeRow where
  width : Nat
  pattern : Nat
  mask : Nat
  deriving DecidableEq, Repr

/-- The row of an instruction (R108). -/
def tableRow : Instr → OpcodeRow
  | .setPowerTrue _ => ⟨20, 0x10001, 0xF0001⟩
  | .setPowerFalse _ => ⟨20, 0x10000, 0xF0001⟩
  | .setProgrammingModeTrue _ => ⟨20, 0x20001, 0xF0001⟩
  | .setProgrammingModeFalse _ => ⟨20, 0x20000, 0xF0001⟩
  | .incAddress _ => ⟨20, 0x30000, 0xF0000⟩
  | .readWord _ _ => ⟨20, 0x40000, 0xF0000⟩
  | .writeWord _ => ⟨20, 0x50000, 0xF0000⟩
  | .burn _ => ⟨20, 0x60000, 0xF0000⟩
  | .erase _ => ⟨20, 0x70000, 0xF0000⟩
  | .loadDataPm => ⟨6, 0x02, 0x3F⟩
  | .readDataPm => ⟨6, 0x04, 0x3F⟩
  | .incAddr => ⟨6, 0x06, 0x3F⟩
  | .beginProg => ⟨6, 0x08, 0x3F⟩
  | .bulkErase => ⟨6, 0x09, 0x3F⟩
  | .endProg => ⟨6, 0x0E, 0x3F⟩

/-- An encoded instruction selects a row when its word under the mask is the pattern, on the row's channel (R108). -/
def OpcodeRow.selectedBy (row : OpcodeRow) : Raw → Bool
  | .request r => row.width == 20 && r.toNat &&& row.mask == row.pattern
  | .command c => row.width == 6 && c.toNat &&& row.mask == row.pattern

/-- A table word as an encoded instruction: a row of 6 bits is an opcode, a row of 20 bits a request word; a word
that does not fit its channel is none. -/
def rawOfTableWord (nbits w : Nat) : Option Raw :=
  if nbits ≤ 8 then (if w < 64 then some (.command (BitVec.ofNat 6 w)) else none)
  else if w < 1048576 then some (.request (BitVec.ofNat 20 w)) else none

/-- The instruction the decoder reads from a word of spec/opcode_table.json (R108). -/
def decodeTableWord (nbits w : Nat) : Option Instr :=
  match rawOfTableWord nbits w with
  | some raw => (decode raw).toOption
  | none => none

end Sys2Proof
end

