-- ==== Sys2Proof/Machine/Operands.lean ====
section
/-! DEFINITION. The engine's arithmetic, all of it (44_address_tracker R215): framing, deframing, the two shift
registers, the address incrementer. -/

namespace Sys2Proof.Machine

/-- `framed = (w & 0x3FFF) << 1` (R66, R96, R222). -/
def frame (w : Word) : Word := (w &&& 0x3FFF#16) <<< 1

/-- `(raw >> 1) & 0x3FFF` (R67, R97, R221). -/
def deframe (raw : Word) : Word := (raw >>> 1) &&& 0x3FFF#16

/-- `zext_16(opcode)`, what `issueCommand` loads into `SR` (R98, R160). -/
def opcodeWord (c : CmdSel) : Word := (opcodeOf c).setWidth 16

/-- The level `SR` presents: its bit 0 (R41, R141). -/
def presentedLevel (sr : Word) : Level := sr.getLsbD 0

/-- `SR >> 1`, logical, zero entering at bit 15 (R141). -/
def shiftOne (sr : Word) : Word := sr >>> 1

/-- `(ACC >> 1) | (b << 15)` (R143). -/
def insertSample (acc : Word) (b : Level) : Word :=
  (acc >>> 1) ||| ((BitVec.ofBool b).setWidth 16 <<< 15)

/-- What a two's-complement register of `locW` bits holds after `x` is written to it: the number of that width equal to
`x` modulo `2^locW` (R23, D8). -/
def narrow (locW : Nat) (x : Int) : Int := x.bmod (2 ^ locW)

/-- `(location + 1) mod memoryLength`, computed on integers and narrowed to the register of `locW` bits (R211, R215). -/
def nextLocation (locW memoryLength : Nat) (location : Int) : Int :=
  narrow locW ((location + 1) % (memoryLength : Int))

end Sys2Proof.Machine
end

