-- ==== Sys2Proof/Machine/Timing.lean ====
section
/-! DEFINITION. The timing table's ten literals (40_timing_table R122 to R131). -/

namespace Sys2Proof.Machine

/-- The timing table of this hardware, in microseconds (R122 to R131, R134). -/
def TT : TimingTable :=
  { resetDelay := 20000
    vppLeadTime := 10
    inputSetTime := 1
    holdActivationTime := 10
    exitDelay := 2
    programmingTime := 10000
    programmingEndTime := 1000
    eraseTime := 20000
    clockCycleDelay := 1
    commandDelay := 5 }

end Sys2Proof.Machine
end

