-- ==== Sys2Proof/Machine/Ops.lean ====
section
/-! DEFINITION. The named operations over lines and registers: the four primitives (00_scope R12, 10_state R34 to
R37), the register assignments, the response (R252, R253), the serializer and the command encoder (41, 42), and the
running of a step list to completion (R13, R72). -/

namespace Sys2Proof.Machine

/-- An event joins the trace (R13). -/
def emit (e : Event) (s : State) : State :=
  { s with bench.trace := s.bench.trace ++ [e] }

/-- The effect of `DIR(l, d)` on the lines (R35, R36). -/
def setDir (l : BusLine) (d : Dir) (ln : Lines) : Lines :=
  match l with
  | .clk => { ln with dirCLK := d }
  | .dat => { ln with dirDAT := d }

/-- The effect of `WR(l, v)` on the lines: an output latch is set whatever the direction (R34 to R36, D3). -/
def setOut (l : Line) (v : Level) (ln : Lines) : Lines :=
  match l with
  | .vdd => { ln with outVDD := v }
  | .vpp => { ln with outVPP := v }
  | .clk => { ln with outCLK := v }
  | .dat => { ln with outDAT := v }

/-- `DIR(l, d)` (R12, R35, R36). -/
def primDir (l : BusLine) (d : Dir) (s : State) : State :=
  emit (.dir l d) { s with lines := setDir l d s.lines }

/-- `WR(l, v)` (R12, R34 to R36). -/
def primWr (l : Line) (v : Level) (s : State) : State :=
  emit (.wr l v) { s with lines := setOut l v s.lines }

/-- The start of `DLY(n)`: its token, and `DLYCNT <- n` (R45, R121, R135). -/
def loadDelay (n : Nat) (s : State) : State :=
  emit (.dly n) { s with datapath.dlycnt := BitVec.ofNat 15 n }

/-- The end of a wait: `DLYCNT` has been counted down to zero (R135, R215). -/
def elapseDelay (s : State) : State :=
  { s with datapath.dlycnt := 0#15 }

/-- `b <- RD(DAT); ACC <- (ACC >> 1) | (b << 15)` for the level `b` the environment answers (R62, R143). -/
def sampleDat (b : Level) (s : State) : State :=
  emit (.rd b)
    { s with datapath.acc := insertSample s.datapath.acc b, bench.samples := s.bench.samples + 1 }

/-- The level the environment answers to the next `RD(DAT)`: the next listed one, else the free value (R62, U7). -/
def nextLevel (s : State) : Level :=
  match s.bench.datIn with
  | b :: _ => b
  | [] => Config.freeDatLevel s.bench.samples

/-- The listed answer is used up. -/
def consumeLevel (s : State) : State :=
  { s with bench.datIn := s.bench.datIn.tail }

/-- `S.hasPower <- v` (R21). -/
def setHasPower (v : Bool) (s : State) : State :=
  { s with session.hasPower := v }

/-- `S.inProgrammingMode <- v` (R22). -/
def setInProgrammingMode (v : Bool) (s : State) : State :=
  { s with session.inProgrammingMode := v }

/-- `S.location <- -1` (R23, R186); -1 fits a register of any width. -/
def resetLocation (s : State) : State :=
  { s with session.location := -1 }

/-- `S.location <- (S.location + 1) mod memoryLength` (R211). -/
def advanceLocation (s : State) : State :=
  { s with session.location := nextLocation s.params.locW s.session.memoryLength s.session.location }

/-- One statement, in full: a `DLY` is waited out, an `RD` takes the environment's next answer. -/
def applyPrim (p : Prim) (s : State) : State :=
  match p with
  | .dir l d => primDir l d s
  | .wr l v => primWr l v s
  | .dly n => elapseDelay (loadDelay n s)
  | .select c => { s with datapath.cmdsel := c }
  | .loadSr v => { s with datapath.sr := v }
  | .presentBit => primWr .dat (presentedLevel s.datapath.sr) s
  | .shiftSr => { s with datapath.sr := shiftOne s.datapath.sr }
  | .clearAcc => { s with datapath.acc := 0#16 }
  | .sampleBit => sampleDat (nextLevel s) (consumeLevel s)
  | .loadBitcnt n => { s with datapath.bitcnt := BitVec.ofNat 5 n }
  | .countBit => { s with datapath.bitcnt := s.datapath.bitcnt - 1#5 }
  | .setHasPower v => setHasPower v s
  | .setInProgrammingMode v => setInProgrammingMode v s
  | .resetLocation => resetLocation s
  | .advanceLocation => advanceLocation s

/-- Statements in order, each completing before the next begins (R13). -/
def applyAll (body : List Prim) (s : State) : State :=
  body.foldl (fun t p => applyPrim p t) s

/-- One output pulse and the shift after it: the loop body of `shiftOut` (R92, R141). -/
def outPulse : List Prim :=
  [ .wr .clk true, .dly TT.clockCycleDelay, .presentBit, .dly TT.clockCycleDelay,
    .wr .clk false, .dly TT.clockCycleDelay, .shiftSr, .countBit ]

/-- One input pulse: the loop body of `shiftIn` (R92, R143). -/
def inPulse : List Prim :=
  [ .wr .clk true, .dly TT.commandDelay, .sampleBit, .wr .clk false, .dly TT.commandDelay, .countBit ]

/-- `shiftOut(value, bitCount)` (R141). -/
def shiftOut (value : Word) (bitCount : Nat) : List Prim :=
  [.loadSr value, .loadBitcnt bitCount] ++ (List.replicate bitCount outPulse).flatten

/-- `shiftIn(bitCount)`; the result stands in `ACC` (R143). -/
def shiftIn (bitCount : Nat) : List Prim :=
  [.clearAcc, .loadBitcnt bitCount] ++ (List.replicate bitCount inPulse).flatten

/-- `issueCommand(opcode)`: `CMDSEL` selects the opcode, `shiftOut(opcode, 6)` sends it (R44, R160). -/
def issueCommand (c : CmdSel) : List Prim :=
  .select c :: shiftOut (opcodeWord c) Config.CMD_BITS

/-- The `data` a reply carries, from the value of `ACC` (R105). -/
def replyData (r : Reply) (acc : Word) : Word :=
  match r with
  | .fail => 0xFFFF#16
  | .done => 0x0000#16
  | .raw => acc
  | .deframed => deframe acc

/-- The `ok` a reply carries (R105, R252, R253). -/
def replyOk (r : Reply) : Bool :=
  match r with
  | .fail => false
  | .done => true
  | .raw => true
  | .deframed => true

/-- The end of an operation: `rsp_ok`, `rsp_data` and `rsp_valid` are written and `busy` falls (R101). With
`Reply.fail` this is the engine's whole answer to an invalid-state call or a reserved code (R251, R253, R260). -/
def reply (r : Reply) (s : State) : State :=
  { s with
    sequencer.busy := false
    response := { ok := replyOk r, data := replyData r s.datapath.acc, pending := true }
    bench.responses := s.bench.responses ++ [(replyOk r, replyData r s.datapath.acc)] }

/-- A step list run to completion: a host operation as one indivisible step (R13, R72). -/
def perform : List Item → State → State
  | [], s => s
  | .prim p :: rest, s => perform rest (applyPrim p s)
  | .command c :: rest, s => perform rest (applyAll (issueCommand c) s)
  | .whenDo c body :: rest, s => perform rest (if condHolds c s then applyAll body s else s)
  | .returnWhen c r :: rest, s => if condHolds c s then reply r s else perform rest s
  | .ret r :: _, s => reply r s

/-- The engine is idle in state `Unpowered`: the only place where a reset has a step (R293). -/
def idleUnpowered (s : State) : Bool :=
  !s.sequencer.busy && modeOf s.session == some .unpowered

/-- The reset input (R290, R293): every piece of state takes its reset value, the trace starts empty, the parameters
and what the outside world has still to offer stay; in any other state there is no step. -/
def applyReset (s : State) : Host.Outcome State Fault Refusal :=
  if idleUnpowered s then
    .next { State.initial s.session.memoryLength s.params with
            bench.datIn := s.bench.datIn, bench.samples := s.bench.samples, bench.requests := s.bench.requests }
  else .refused .resetOutsideIdleUnpowered

end Sys2Proof.Machine
end

