-- ==== Sys2Proof/Machine/AddressTracker.lean ====
section
/-! DEFINITION. The memory address tracker (44_address_tracker.md): `incAddress`. -/

namespace Sys2Proof.Machine

/-- `incAddress()` (R211). -/
def incAddressSteps : List Item :=
  [ .returnWhen .notInProgrammingMode .fail, .command .incAddr, .prim (.dly TT.commandDelay),
    .prim .advanceLocation, .ret .done ]

/-- `incAddress()` (R211). -/
def execIncAddress (s : State) : Host.Outcome State Fault Refusal :=
  .next (perform incAddressSteps s)

end Sys2Proof.Machine
end

