-- ==== Sys2Proof/Machine/Commands.lean ====
section
/-! DEFINITION. The six wire commands (42_command_encoder R162 to R167): the meaning of each is what the engine does to
emit it, `issueCommand(opcode)`. It has no guard and no wait of its own, and gives no response (R160; log entry 7). -/

namespace Sys2Proof.Machine

/-- `LOAD_DATA_PM`, opcode `0x02` (R162). -/
def execLoadDataPm (s : State) : Host.Outcome State Fault Refusal :=
  .next (applyAll (issueCommand .loadDataPm) s)

/-- `READ_DATA_PM`, opcode `0x04` (R163). -/
def execReadDataPm (s : State) : Host.Outcome State Fault Refusal :=
  .next (applyAll (issueCommand .readDataPm) s)

/-- `INC_ADDR`, opcode `0x06` (R164). -/
def execIncAddr (s : State) : Host.Outcome State Fault Refusal :=
  .next (applyAll (issueCommand .incAddr) s)

/-- `BEGIN_PROG`, opcode `0x08` (R165). -/
def execBeginProg (s : State) : Host.Outcome State Fault Refusal :=
  .next (applyAll (issueCommand .beginProg) s)

/-- `BULK_ERASE`, opcode `0x09` (R166). -/
def execBulkErase (s : State) : Host.Outcome State Fault Refusal :=
  .next (applyAll (issueCommand .bulkErase) s)

/-- `END_PROG`, opcode `0x0E` (R167). -/
def execEndProg (s : State) : Host.Outcome State Fault Refusal :=
  .next (applyAll (issueCommand .endProg) s)

end Sys2Proof.Machine
end

