-- ==== Sys2Proof/Machine/PowerMode.lean ====
section
/-! DEFINITION. The power/mode state machine (43_power_mode.md): the step lists of R183 to R188, and the meanings of
`setPower` and `setProgrammingMode`. -/

namespace Sys2Proof.Machine

/-- `enterPM` (R186). -/
def enterPM : List Prim :=
  [ .dir .clk .out, .dir .dat .out, .wr .clk false, .wr .dat false, .dly TT.inputSetTime,
    .wr .vpp true, .dly TT.vppLeadTime, .wr .vdd true, .dly TT.holdActivationTime,
    .resetLocation, .setHasPower true, .setInProgrammingMode true ]

/-- `exitPM` (R187). -/
def exitPM : List Prim :=
  [ .dir .dat .out, .wr .dat false, .wr .clk false, .wr .vdd false, .dly TT.exitDelay,
    .wr .vpp false, .dly TT.resetDelay, .dir .clk .inp, .dir .dat .inp,
    .setInProgrammingMode false, .setHasPower false ]

/-- The body of the second `if` of `setPower(true)` (R183). -/
def powerUp : List Prim :=
  [ .wr .vdd true, .dly TT.resetDelay, .setHasPower true ]

/-- The body of the second `if` of `setPower(false)` (R184). -/
def powerDown : List Prim :=
  [ .wr .vdd false, .dly TT.resetDelay, .setHasPower false ]

/-- `setPower(true)` (R183). -/
def setPowerTrueSteps : List Item :=
  [ .whenDo .inProgrammingMode exitPM, .whenDo .notHasPower powerUp, .ret .done ]

/-- `setPower(false)` as a procedure, without its return (R184, R185). -/
def setPowerFalseBody : List Item :=
  [ .whenDo .inProgrammingMode exitPM, .whenDo .hasPower powerDown ]

/-- `setPower(false)` (R184). -/
def setPowerFalseSteps : List Item :=
  setPowerFalseBody ++ [.ret .done]

/-- `setProgrammingMode(true)` (R185). -/
def setProgrammingModeTrueSteps : List Item :=
  [.returnWhen .inProgrammingMode .done] ++ setPowerFalseBody ++ enterPM.map .prim ++ [.ret .done]

/-- `setProgrammingMode(false)` (R188). -/
def setProgrammingModeFalseSteps : List Item :=
  [.returnWhen .guardedAndNotInProgrammingMode .done] ++ exitPM.map .prim ++ [.ret .done]

/-- `setPower(true)` (R183). -/
def execSetPowerTrue (s : State) : Host.Outcome State Fault Refusal :=
  .next (perform setPowerTrueSteps s)

/-- `setPower(false)` (R184). -/
def execSetPowerFalse (s : State) : Host.Outcome State Fault Refusal :=
  .next (perform setPowerFalseSteps s)

/-- `setProgrammingMode(true)` (R185). -/
def execSetProgrammingModeTrue (s : State) : Host.Outcome State Fault Refusal :=
  .next (perform setProgrammingModeTrueSteps s)

/-- `setProgrammingMode(false)` (R188). -/
def execSetProgrammingModeFalse (s : State) : Host.Outcome State Fault Refusal :=
  .next (perform setProgrammingModeFalseSteps s)

end Sys2Proof.Machine
end

