-- ==== Sys2Proof/Machine/Programming.lean ====
section
/-! DEFINITION. The programming operations (45_programming_ops.md): `readWord`, `writeWord`, `burn`, `erase`. -/

namespace Sys2Proof.Machine

/-- `readWord(includeFraming)` (R221). -/
def readWordSteps (includeFraming : Bool) : List Item :=
  [ .returnWhen .notInProgrammingMode .fail, .command .readDataPm, .prim (.dir .dat .inp),
    .prim (.dly TT.commandDelay) ] ++
  (shiftIn Config.FRAME_BITS).map .prim ++
  [ .prim (.dir .dat .out), .ret (if includeFraming then .raw else .deframed) ]

/-- `writeWord(w)` (R222). -/
def writeWordSteps (w : Word) : List Item :=
  [ .returnWhen .notInProgrammingMode .fail, .command .loadDataPm, .prim (.dly TT.commandDelay) ] ++
  (shiftOut (frame w) Config.FRAME_BITS).map .prim ++
  [ .prim (.wr .dat false), .ret .done ]

/-- `burn()` (R223). -/
def burnSteps : List Item :=
  [ .returnWhen .notInProgrammingMode .fail, .command .beginProg, .prim (.dly TT.programmingTime),
    .command .endProg, .prim (.dly TT.programmingEndTime), .ret .done ]

/-- `erase()` (R224). -/
def eraseSteps : List Item :=
  [ .returnWhen .notInProgrammingMode .fail, .command .bulkErase, .prim (.dly TT.eraseTime), .ret .done ]

/-- `readWord(includeFraming)` (R221). -/
def execReadWord (includeFraming : Bool) (s : State) : Host.Outcome State Fault Refusal :=
  .next (perform (readWordSteps includeFraming) s)

/-- `writeWord(w)` (R222). -/
def execWriteWord (w : Word) (s : State) : Host.Outcome State Fault Refusal :=
  .next (perform (writeWordSteps w) s)

/-- `burn()` (R223). -/
def execBurn (s : State) : Host.Outcome State Fault Refusal :=
  .next (perform burnSteps s)

/-- `erase()` (R224). -/
def execErase (s : State) : Host.Outcome State Fault Refusal :=
  .next (perform eraseSteps s)

end Sys2Proof.Machine
end

