-- ==== Sys2Proof/Machine/Dispatch.lean ====
section
/-! DEFINITION. One arm per instruction, each a direct call of its meaning. -/

namespace Sys2Proof.Machine

def exec (i : Instr) (s : State) : Host.Outcome State Fault Refusal :=
  match i with
  -- 43_power_mode.md
  | .setPowerTrue _ => Sys2Proof.Machine.execSetPowerTrue s
  | .setPowerFalse _ => Sys2Proof.Machine.execSetPowerFalse s
  | .setProgrammingModeTrue _ => Sys2Proof.Machine.execSetProgrammingModeTrue s
  | .setProgrammingModeFalse _ => Sys2Proof.Machine.execSetProgrammingModeFalse s
  -- 44_address_tracker.md
  | .incAddress _ => Sys2Proof.Machine.execIncAddress s
  -- 45_programming_ops.md
  | .readWord f _ => Sys2Proof.Machine.execReadWord f s
  | .writeWord w => Sys2Proof.Machine.execWriteWord w s
  | .burn _ => Sys2Proof.Machine.execBurn s
  | .erase _ => Sys2Proof.Machine.execErase s
  -- 42_command_encoder.md
  | .loadDataPm => Sys2Proof.Machine.execLoadDataPm s
  | .readDataPm => Sys2Proof.Machine.execReadDataPm s
  | .incAddr => Sys2Proof.Machine.execIncAddr s
  | .beginProg => Sys2Proof.Machine.execBeginProg s
  | .bulkErase => Sys2Proof.Machine.execBulkErase s
  | .endProg => Sys2Proof.Machine.execEndProg s

end Sys2Proof.Machine
end

