-- ==== Sys2Proof/Machine/Sequencer.lean ====
section
/-! DEFINITION. The sequencer (10_state R40): the step list of each host operation, the acceptance of a request
(30_encoding R101), the advance of an operation in progress by one item, and what the machine does next. -/

namespace Sys2Proof.Machine

/-- The step list of a host operation; a wire command is no host operation (R107, R169) and has none. -/
def hostSteps (i : Instr) : Option (List Item) :=
  match i with
  | .setPowerTrue _ => some setPowerTrueSteps
  | .setPowerFalse _ => some setPowerFalseSteps
  | .setProgrammingModeTrue _ => some setProgrammingModeTrueSteps
  | .setProgrammingModeFalse _ => some setProgrammingModeFalseSteps
  | .incAddress _ => some incAddressSteps
  | .readWord f _ => some (readWordSteps f)
  | .writeWord w => some (writeWordSteps w)
  | .burn _ => some burnSteps
  | .erase _ => some eraseSteps
  | .loadDataPm => none
  | .readDataPm => none
  | .incAddr => none
  | .beginProg => none
  | .bulkErase => none
  | .endProg => none

/-- A request is accepted: the engine is busy, and the last response is no longer announced (R101). -/
def accept (s : State) : State :=
  { s with sequencer.busy := true, response.pending := false }

/-- `SEQ` takes a new position. -/
def setSeq (items : List Item) (s : State) : State :=
  { s with sequencer.seq := items }

/-- A host operation accepted and about to perform its first item (R40, R101). -/
def beginOp (items : List Item) (s : State) : State :=
  setSeq items (accept s)

/-- An idle engine with no request: the response is announced for one cycle only (R101, R291). -/
def idleCycle (s : State) : State :=
  { s with response.pending := false }

/-- `SEQ` has run out without a return: the engine is idle again (log entry 16). -/
def runOut (s : State) : State :=
  { s with sequencer.busy := false }

/-- An item other than a wire command, at the head of `SEQ` before `rest`. -/
def advanceItem (it : Item) (rest : List Item) (s : State) : State :=
  match it with
  | .prim p => setSeq rest (applyPrim p s)
  | .command c => setSeq rest (applyAll (issueCommand c) s)
  | .whenDo c body => setSeq (if condHolds c s then body.map .prim ++ rest else rest) s
  | .returnWhen c r => if condHolds c s then setSeq [] (reply r s) else setSeq rest s
  | .ret r => setSeq [] (reply r s)

/-- What a step is to do: run an instruction in a state, or take a state. -/
inductive Fetched where
  | run (i : Instr) (s : State)
  | done (s : State)
  deriving DecidableEq, Repr

/-- An idle engine takes the host's next request (R101); a reserved code is answered at once (R104). -/
def fetchRequest (s : State) : Fetched :=
  match s.bench.requests with
  | [] => .done (idleCycle s)
  | r :: rest =>
    match decodeRequest r with
    | .ok i => .run i (accept { s with bench.requests := rest })
    | .error _ => .done (reply .fail (accept { s with bench.requests := rest }))

/-- A busy engine takes the head of `SEQ`; a wire command there is an instruction (R40, R160). -/
def fetchSeq (s : State) : Fetched :=
  match s.sequencer.seq with
  | [] => .done (runOut s)
  | .command c :: rest => .run (commandInstr c) (setSeq rest s)
  | it :: rest => .done (advanceItem it rest s)

/-- What comes next: a request presented while busy is not accepted (R101). -/
def fetch (s : State) : Fetched :=
  if s.sequencer.busy then fetchSeq s else fetchRequest s

/-- The encoded instruction placed where the next step takes it: a request word is the next one at the port of an idle
engine; a wire command is the head of `SEQ` of a busy one (log entries 5 and 7). -/
def placeRaw (raw : Raw) (s : State) : State :=
  match raw with
  | .request r => { s with sequencer := { busy := false, seq := [] }, bench.requests := r :: s.bench.requests }
  | .command c =>
    match commandOf c with
    | some sel => { s with sequencer := { busy := true, seq := [.command sel] } }
    | none => { s with sequencer := { busy := true, seq := [] } }

end Sys2Proof.Machine
end

