-- ==== Sys2Proof/Machine/Step.lean ====
section
/-! DEFINITION. One step of the machine: an idle engine serves the host's next request to completion (20_memory R72,
30_encoding R101); a busy engine performs the next item of its step list. -/

namespace Sys2Proof.Machine

/-- One step. -/
def step (s : State) : Host.Outcome State Fault Refusal :=
  match fetch s with
  | .run i t => exec i t
  | .done t => .next t

/-- `s` with the instruction of a table word placed where `step` takes its next instruction. -/
def State.withFetchWord (s : State) (nbits w : Nat) : State :=
  match rawOfTableWord nbits w with
  | some raw => placeRaw raw s
  | none => s

end Sys2Proof.Machine
end

