-- ==== Sys2Proof/Machine/Ports.lean ====
section
/-! DEFINITION. The clocked layer: the ports of 60_exceptions R266 and 30_encoding R101, the delay sequencer of
40_timing_table R135, and one cycle of the engine's own clock. `step` takes a whole operation at once (20_memory R72);
here the same step lists run one item a cycle, `DLYCNT` counts ticks and requests come at the port. -/

namespace Sys2Proof.Machine

/-- The inputs in one clock cycle (R101, R266). -/
structure PortsIn where
  rst : Bool
  reqValid : Bool
  reqOp : BitVec 4
  reqArg : Word
  datI : Level
  tickUs : Bool
  deriving DecidableEq, Repr

/-- The outputs (R101, R266). -/
structure PortsOut where
  vddEn : Level
  vppEn : Level
  clkO : Level
  clkOe : Bool
  datO : Level
  datOe : Bool
  busy : Bool
  rspValid : Bool
  rspOk : Bool
  rspData : Word
  deriving DecidableEq, Repr

/-- The outputs are functions of the state (R266). -/
def pins (s : State) : PortsOut :=
  { vddEn := s.lines.outVDD
    vppEn := s.lines.outVPP
    clkO := s.lines.outCLK
    clkOe := s.lines.dirCLK == .out
    datO := s.lines.outDAT
    datOe := s.lines.dirDAT == .out
    busy := s.sequencer.busy
    rspValid := s.response.pending
    rspOk := s.response.ok
    rspData := s.response.data }

/-- The level the engine puts on the clock pin: none when it is high-impedance (R35). -/
def clkPin (ln : Lines) : Option Level :=
  if ln.dirCLK == .out then some ln.outCLK else none

/-- The level the engine puts on the data pin: none when it is high-impedance (R36). -/
def datPin (ln : Lines) : Option Level :=
  if ln.dirDAT == .out then some ln.outDAT else none

/-- The request word at the port, `{op, arg}` (R100). -/
def requestWord (inp : PortsIn) : BitVec 20 := inp.reqOp ++ inp.reqArg

/-- One statement in one cycle: a `DLY` only starts its wait (R135), an `RD` samples `DAT_I` (R266). -/
def clockPrim (datI : Level) (p : Prim) (s : State) : State :=
  match p with
  | .dly n => loadDelay n s
  | .sampleBit => sampleDat datI s
  | p => applyPrim p s

/-- The head of `SEQ` in one cycle; a call of `issueCommand` puts that procedure's statements in its place. -/
def clockItem (datI : Level) (it : Item) (rest : List Item) (s : State) : State :=
  match it with
  | .prim p => setSeq rest (clockPrim datI p s)
  | .command c => setSeq ((issueCommand c).map .prim ++ rest) s
  | it => advanceItem it rest s

/-- A waiting sequencer: `DLYCNT` decrements on a tick (R135). -/
def countTick (tick : Bool) (s : State) : State :=
  if tick then { s with datapath.dlycnt := s.datapath.dlycnt - 1#15 } else s

/-- A cycle of a busy engine: it waits while `DLYCNT` is not zero (R121, R135), else performs the next item. -/
def clockBusy (inp : PortsIn) (s : State) : State :=
  if s.datapath.dlycnt = 0#15 then
    match s.sequencer.seq with
    | [] => runOut s
    | it :: rest => clockItem inp.datI it rest s
  else countTick inp.tickUs s

/-- A cycle of an idle engine: a valid request is accepted, a reserved code answered at once (R101, R104). -/
def clockIdle (inp : PortsIn) (s : State) : State :=
  if inp.reqValid then
    match decodeRequest (requestWord inp) with
    | .ok i =>
      match hostSteps i with
      | some items => beginOp items s
      | none => reply .fail (accept s)
    | .error _ => reply .fail (accept s)
  else idleCycle s

/-- A cycle without reset; a request presented while busy is not looked at (R101). -/
def clockRunning (inp : PortsIn) (s : State) : State :=
  if s.sequencer.busy then clockBusy inp s else clockIdle inp s

/-- One cycle of the engine's clock. -/
def clock (inp : PortsIn) (s : State) : Host.Outcome State Fault Refusal :=
  if inp.rst then applyReset s else .next (clockRunning inp s)

/-- Cycles in order, none of them with reset. -/
def clockRun (ins : List PortsIn) (s : State) : State :=
  ins.foldl (fun t inp => clockRunning inp t) s

end Sys2Proof.Machine
end

