-- ==== Sys2Proof/Safety.lean ====
section
/-! DEFINITION. The terms in which claims are stated: the spec's traces written out (95_test_vectors, abbreviations),
what a trace means (minimum duration, the lines it leaves, the bits on the wire), the state invariant of an operation
boundary (10_state R25, R38), the rail order (43_power_mode R192), and the test double `LoopTarget`. -/

namespace Sys2Proof.Safety

open Sys2Proof.Machine

/-- `P(b)`: one output pulse (30_encoding R92, 41 R142). -/
def P (b : Level) : List Event :=
  [.wr .clk true, .dly 1, .wr .dat b, .dly 1, .wr .clk false, .dly 1]

/-- `Q(v)`: one input pulse (R92, R146). -/
def Q (v : Level) : List Event :=
  [.wr .clk true, .dly 5, .rd v, .wr .clk false, .dly 5]

/-- The output pulses of bits in the order of the wire. -/
def pulsesOut (bits : List Level) : List Event := bits.flatMap P

/-- The input pulses of levels in the order of receipt. -/
def pulsesIn (levels : List Level) : List Event := levels.flatMap Q

/-- Bits `0 .. n-1` of a value, least significant first (20_memory R65). -/
def lsbFirst (n : Nat) (v : Word) : List Level := (List.range n).map v.getLsbD

/-- The wire bits of each command, first to last, as R161 prints them. -/
def commandBits : CmdSel → List Level
  | .loadDataPm => [false, true, false, false, false, false]
  | .readDataPm => [false, false, true, false, false, false]
  | .incAddr => [false, true, true, false, false, false]
  | .beginProg => [false, false, false, true, false, false]
  | .bulkErase => [true, false, false, true, false, false]
  | .endProg => [false, true, true, true, false, false]

/-- `CMD(op)` (95_test_vectors V2b). -/
def CMD (c : CmdSel) : List Event := pulsesOut (commandBits c)

/-- The sixteen bits of an output frame, first to last: start 0, `w[0] .. w[13]`, stop 0 (R66, R94). -/
def frameBits (w : Word) : List Level := [false] ++ lsbFirst 14 w ++ [false]

/-- `E`, the trace of `enterPM` (R186). -/
def E : List Event :=
  [.dir .clk .out, .dir .dat .out, .wr .clk false, .wr .dat false, .dly 1, .wr .vpp true, .dly 10, .wr .vdd true, .dly 10]

/-- `X`, the trace of `exitPM` (R187). -/
def X : List Event :=
  [.dir .dat .out, .wr .dat false, .wr .clk false, .wr .vdd false, .dly 2, .wr .vpp false, .dly 20000,
   .dir .clk .inp, .dir .dat .inp]

/-- `U`, powering up (R189). -/
def U : List Event := [.wr .vdd true, .dly 20000]

/-- `D`, powering down (R189). -/
def D : List Event := [.wr .vdd false, .dly 20000]

/-- The minimum duration of a trace in microseconds: the sum of its `DLY` operands (70 R315). -/
def minDuration : List Event → Nat
  | [] => 0
  | .dly n :: rest => n + minDuration rest
  | .dir _ _ :: rest => minDuration rest
  | .wr _ _ :: rest => minDuration rest
  | .rd _ :: rest => minDuration rest

/-- What one event does to the lines (R34 to R37). -/
def eventLines (ln : Lines) : Event → Lines
  | .dir l d => setDir l d ln
  | .wr l v => setOut l v ln
  | .rd _ => ln
  | .dly _ => ln

/-- The lines after a trace. -/
def linesAfter (ln : Lines) (trace : List Event) : Lines := trace.foldl eventLines ln

/-- A bit recovered from a trace, with its direction as the engine sees it. -/
inductive WireBit where
  | sent (v : Level)
  | received (v : Level)
  deriving DecidableEq, Repr

/-- The decoder of a recorded trace (R92): an output bit is a `WR(DAT, ·)`, an input bit an `RD(DAT)`, between a
`WR(CLK,1)` and the next `WR(CLK,0)`. -/
def wireBits (clkHigh : Bool) : List Event → List WireBit
  | [] => []
  | .wr .clk v :: rest => wireBits v rest
  | .wr .dat v :: rest => if clkHigh then .sent v :: wireBits clkHigh rest else wireBits clkHigh rest
  | .rd v :: rest => if clkHigh then .received v :: wireBits clkHigh rest else wireBits clkHigh rest
  | .wr .vdd _ :: rest => wireBits clkHigh rest
  | .wr .vpp _ :: rest => wireBits clkHigh rest
  | .dir _ _ :: rest => wireBits clkHigh rest
  | .dly _ :: rest => wireBits clkHigh rest

/-- The response registers as an operation leaves them, with `rsp_valid` (R101). -/
def answered (ok : Bool) (data : Word) : Response := { ok := ok, data := data, pending := true }

/-- `s` after an operation that performed `events` and was answered `(ok, data)`: the trace and the list of responses
grow, the engine is idle (R101, R105, R296). -/
def concluded (events : List Event) (ok : Bool) (data : Word) (s : State) : State :=
  { s with
    sequencer.busy := false
    response := answered ok data
    bench.trace := s.bench.trace ++ events
    bench.responses := s.bench.responses ++ [(ok, data)] }

/-- The five operations that are valid in ProgrammingMode only (R251). -/
def isGuarded : Instr → Bool
  | .incAddress _ => true
  | .readWord _ _ => true
  | .writeWord _ => true
  | .burn _ => true
  | .erase _ => true
  | .setPowerTrue _ => false
  | .setPowerFalse _ => false
  | .setProgrammingModeTrue _ => false
  | .setProgrammingModeFalse _ => false
  | .loadDataPm => false
  | .readDataPm => false
  | .incAddr => false
  | .beginProg => false
  | .bulkErase => false
  | .endProg => false

/-- The four transitions of the power/mode state machine (R189). -/
def isTransition : Instr → Bool
  | .setPowerTrue _ => true
  | .setPowerFalse _ => true
  | .setProgrammingModeTrue _ => true
  | .setProgrammingModeFalse _ => true
  | .incAddress _ => false
  | .readWord _ _ => false
  | .writeWord _ => false
  | .burn _ => false
  | .erase _ => false
  | .loadDataPm => false
  | .readDataPm => false
  | .incAddr => false
  | .beginProg => false
  | .bulkErase => false
  | .endProg => false

/-- The same instruction, run `n` times. -/
def execTimes (i : Instr) : Nat → State → Host.Outcome State Fault Refusal
  | 0, s => .next s
  | n + 1, s =>
    match exec i s with
    | .next t => execTimes i n t
    | .fault r => .fault r
    | .refused r => .refused r

/-- The Session fields agree with R25, and `location` lies in its range (R23), with a register of `locW`
bits. -/
abbrev sessionOk (locW : Nat) (s : Session) : Prop :=
  (s.inProgrammingMode = true → s.hasPower = true) ∧
  memoryLengthOk locW s.memoryLength = true ∧
  -1 ≤ s.location ∧ s.location < s.memoryLength

/-- The line state at an operation boundary, from the two flags (R38, R180). -/
def boundaryLines (s : Session) : Lines :=
  { outVDD := s.hasPower
    outVPP := s.inProgrammingMode
    dirCLK := if s.inProgrammingMode then .out else .inp
    outCLK := false
    dirDAT := if s.inProgrammingMode then .out else .inp
    outDAT := false }

/-- No operation is in progress and no wait is running (R40, R296). -/
abbrev Idle (s : State) : Prop :=
  s.sequencer = { busy := false, seq := [] } ∧ s.datapath.dlycnt = 0#15

/-- The invariant of an operation boundary (R25, R38). -/
abbrev Boundary (s : State) : Prop :=
  Idle s ∧ sessionOk s.params.locW s.session ∧ s.lines = boundaryLines s.session

/-- The three rows of R180 as states: an idle boundary in the named mode, with any `location` and datapath. -/
abbrev AtMode (m : Mode) (s : State) : Prop :=
  Boundary s ∧ modeOf s.session = some m

/-- The cells of R189's transition table, `EXIT_PM_GUARDED = false`: next state, trace, minimum duration. -/
def transition : Mode → Instr → Option (Mode × List Event × Nat)
  | .unpowered, .setPowerTrue _ => some (.powered, U, 20000)
  | .powered, .setPowerTrue _ => some (.powered, [], 0)
  | .programmingMode, .setPowerTrue _ => some (.powered, X ++ U, 40002)
  | .unpowered, .setPowerFalse _ => some (.unpowered, [], 0)
  | .powered, .setPowerFalse _ => some (.unpowered, D, 20000)
  | .programmingMode, .setPowerFalse _ => some (.unpowered, X, 20002)
  | .unpowered, .setProgrammingModeTrue _ => some (.programmingMode, E, 21)
  | .powered, .setProgrammingModeTrue _ => some (.programmingMode, D ++ E, 20021)
  | .programmingMode, .setProgrammingModeTrue _ => some (.programmingMode, [], 0)
  | _, .setProgrammingModeFalse _ => some (.unpowered, X, 20002)
  | _, _ => none

/-- The waits, in microseconds, that follow a `WR(VDD, ·)` within the step list that contains it, from the events after it.
A later step list shows itself by the `DIR(CLK,out)` that begins `E` or by its own `WR(VDD, ·)`; no wait stands before
that `WR(VDD, ·)` in the lists that begin otherwise (R183, R184, R187). -/
def settleTime : List Event → Nat
  | [] => 0
  | .wr .vdd _ :: _ => 0
  | .dir .clk .out :: _ => 0
  | .dly n :: rest => n + settleTime rest
  | .wr .vpp _ :: rest => settleTime rest
  | .wr .clk _ :: rest => settleTime rest
  | .wr .dat _ :: rest => settleTime rest
  | .dir .clk .inp :: rest => settleTime rest
  | .dir .dat _ :: rest => settleTime rest
  | .rd _ :: rest => settleTime rest

/-- R192 (d) at an event: a `WR(VDD, ·)` is followed, within its step list, by waits of at least 20000 microseconds, but
for the `WR(VDD,1)` inside `E`, where `VPP` is high, which is followed by 10. -/
def settleOk (ln : Lines) (e : Event) (rest : List Event) : Bool :=
  match e with
  | .wr .vdd v => if v && ln.outVPP then rest.head? == some (.dly 10) else decide (20000 ≤ settleTime rest)
  | _ => true

/-- The rail checks of R192 at one event `e`: `p2`, `p1` are the two events before it, `ln` the lines before it,
`rest` the events after it. -/
def railEventOk (p2 p1 : Option Event) (ln : Lines) (e : Event) (rest : List Event) : Bool :=
  (if e = .wr .vpp true then !ln.outVDD && (rest.take 2 == [.dly 10, .wr .vdd true]) else true) &&
  (if e = .wr .vpp false then p2 == some (.wr .vdd false) && p1 == some (.dly 2) else true) &&
  (if (eventLines ln e).outVPP && !(eventLines ln e).outVDD then
      e == .wr .vpp true || (e == .dly 10 && p1 == some (.wr .vpp true)) ||
      e == .wr .vdd false || (e == .dly 2 && p1 == some (.wr .vdd false))
    else true) &&
  settleOk ln e rest

/-- The rail order of R192 (a) to (d) along a trace: (a) `VPP` rises only with `VDD` low and is followed by
`DLY(10), WR(VDD,1)`; (b) `VPP` falls only right after `WR(VDD,0), DLY(2)`; (c) `VPP` high with `VDD` low only there;
(d) every `WR(VDD, ·)` is followed by the waits it needs. -/
def railOrderOk (p2 p1 : Option Event) (ln : Lines) : List Event → Bool
  | [] => true
  | e :: rest => railEventOk p2 p1 ln e rest && railOrderOk p1 (some e) (eventLines ln e) rest

/-- The trace from reset keeps the rail order and accounts for the lines. -/
abbrev TraceOk (s : State) : Prop :=
  linesAfter Lines.reset s.bench.trace = s.lines ∧ railOrderOk none none Lines.reset s.bench.trace = true

/-- What `LoopTarget` is collecting (95 Part 3). -/
inductive LoopPhase where
  | command
  | writeFrame
  | readFrame (left : Nat)
  deriving DecidableEq, Repr

/-- The test double `LoopTarget` (95 Part 3, D19); it is not a model of any PIC. -/
structure LoopTarget where
  clk : Level
  dat : Level
  bits : List Level
  phase : LoopPhase
  latch : BitVec 14
  deriving DecidableEq, Repr

/-- `LoopTarget` before any event. -/
def LoopTarget.start : LoopTarget :=
  { clk := false, dat := false, bits := [], phase := .command, latch := 0#14 }

/-- The value of bits, the first least significant. -/
def bitsValue : List Level → Nat
  | [] => 0
  | b :: rest => b.toNat + 2 * bitsValue rest

/-- `LoopTarget` at a falling edge of the clock. -/
def LoopTarget.fall (t : LoopTarget) : LoopTarget :=
  match t.phase with
  | .command =>
    if t.bits.length = 5 then
      match bitsValue (t.bits ++ [t.dat]) with
      | 0x02 => { t with bits := [], phase := .writeFrame }
      | 0x04 => { t with bits := [], phase := .readFrame 16 }
      | _ => { t with bits := [] }
    else { t with bits := t.bits ++ [t.dat] }
  | .writeFrame =>
    if t.bits.length = 15 then
      { t with bits := [], phase := .command, latch := BitVec.ofNat 14 (bitsValue (t.bits ++ [t.dat]) / 2) }
    else { t with bits := t.bits ++ [t.dat] }
  | .readFrame left => if left ≤ 1 then { t with phase := .command } else { t with phase := .readFrame (left - 1) }

/-- `LoopTarget` sees one event. -/
def LoopTarget.see (t : LoopTarget) (e : Event) : LoopTarget :=
  match e with
  | .wr .clk v => if t.clk && !v then LoopTarget.fall { t with clk := false } else { t with clk := v }
  | .wr .dat v => { t with dat := v }
  | .wr .vpp false => { t with bits := [], phase := .command }
  | .wr .vpp true => t
  | .wr .vdd _ => t
  | .dir _ _ => t
  | .rd _ => t
  | .dly _ => t

/-- `LoopTarget` after a trace. -/
def LoopTarget.after (trace : List Event) : LoopTarget := trace.foldl LoopTarget.see LoopTarget.start

/-- The sixteen levels `LoopTarget` answers in a read frame: bit `k-1` of `{0, latch, 0}` at the k-th pulse. -/
def LoopTarget.answers (t : LoopTarget) : List Level :=
  [false] ++ (List.range 14).map t.latch.getLsbD ++ [false]

/-- The level `LoopTarget` presents: in a read frame with `left` pulses to go, the bit of the pulse it is in; in any other
phase none (95 Part 3). -/
def LoopTarget.presented (t : LoopTarget) : Option Level :=
  match t.phase with
  | .readFrame left => t.answers[16 - left]?
  | .command => none
  | .writeFrame => none

/-- `LoopTarget`, watching the events from `t` on, answers each `RD(DAT)` among them: the level read is the one it presents
at that moment. -/
def LoopTarget.answersAll : LoopTarget → List Event → Bool
  | _, [] => true
  | t, e :: rest =>
    (match e with
      | .rd v => t.presented == some v
      | _ => true) && (t.see e).answersAll rest

/-- An `RD(DAT)` of the trace. -/
def isSample : Event → Bool
  | .rd _ => true
  | .dir _ _ => false
  | .wr _ _ => false
  | .dly _ => false

/-- An `RD(DAT)` is performed in the cycle: the events the cycle adds to the trace have one. -/
def samplesIn (inp : PortsIn) (s : State) : Bool :=
  ((clockRunning inp s).bench.trace.drop s.bench.trace.length).any isSample

/-- The levels on `DAT_I` in those cycles in which an `RD(DAT)` is performed, in order (R266). -/
def levelsAtPin : List PortsIn → State → List Level
  | [], _ => []
  | inp :: ins, s =>
    if samplesIn inp s then inp.datI :: levelsAtPin ins (clockRunning inp s) else levelsAtPin ins (clockRunning inp s)

end Sys2Proof.Safety
end

