-- ==== Sys2Proof/Certificates/Slice0/Obligations.lean ====
section
/-! DEFINITION. The statements for the provers. Each docstring names the rules of spec/ it rests on. -/

open Sys2Proof Sys2Proof.Machine Sys2Proof.Safety

/-! ### Encoding -/

/-- 30_encoding R91, R100 to R103, R161: decoding what the encoder writes gives the instruction back, for every
instruction and every operand value. -/
def Obligations.DecodeOfEncodeIsIdentity : Prop :=
  ∀ i : Instr, decode (encode i) = .ok i

/-- 30_encoding R100 to R103, R161: each word has one meaning, so encoding a decoded instruction restores the word. That
ignored bits are kept in the instruction is the model's choice (log entry 14). -/
def Obligations.EncodeOfDecodeRestoresTheWord : Prop :=
  ∀ (raw : Raw) (i : Instr), decode raw = .ok i → encode i = raw

/-- 30_encoding R99, R102, R104: the decoder rejects exactly the reserved request codes and the 58 other opcodes, and
names what it rejects. -/
def Obligations.DecoderRejectsExactlyReservedWords : Prop :=
  (∀ r : BitVec 20, requestAssigned r = false ↔ decode (.request r) = .error (.reservedRequest (requestOp r))) ∧
  (∀ c : BitVec 6, commandAssigned c = false ↔ decode (.command c) = .error (.unassignedCommand c)) ∧
  (∀ raw : Raw, raw.wellFormed = true ↔ ∃ i, decode raw = .ok i)

/-- 30_encoding R108: the decoded instruction's row of the opcode table is selected by the word, and no instruction of
another row is. -/
def Obligations.DecodedWordSelectsItsTableRowAlone : Prop :=
  ∀ (raw : Raw) (i : Instr), decode raw = .ok i →
    (tableRow i).selectedBy raw = true ∧
    ∀ j : Instr, (tableRow j).selectedBy raw = true → tableRow j = tableRow i

/-- Words written out from 30_encoding R91, R100, R102 and R161 and from 95_test_vectors V17 decode to the instructions
they stand for (a sanity statement). -/
def Obligations.SpecWordsDecodeToTheirInstructions : Prop :=
  decode (.request 0b0001_0000000000000001#20) = .ok (.setPowerTrue 0#15) ∧
  decode (.request 0b0010_0000000000000000#20) = .ok (.setProgrammingModeFalse 0#15) ∧
  decode (.request 0x3ABCD#20) = .ok (.incAddress 0xABCD#16) ∧
  decode (.request 0x4FFFE#20) = .ok (.readWord false 0x7FFF#15) ∧
  decode (.request 0x52AAA#20) = .ok (.writeWord 0x2AAA#16) ∧
  decode (.command 0b001001#6) = .ok .bulkErase

/-- 30_encoding R103: two requests that differ in ignored bits only make the idle engine take the same step. -/
def Obligations.IgnoredRequestBitsHaveNoEffect : Prop :=
  ∀ (s : State) (r r' : BitVec 20) (rest : List (BitVec 20)),
    s.sequencer.busy = false →
    requestOp r = requestOp r' →
    (requestOp r = 1#4 ∨ requestOp r = 2#4 ∨ requestOp r = 4#4 → r.getLsbD 0 = r'.getLsbD 0) →
    (requestOp r = 5#4 → requestArg r = requestArg r') →
    step { s with bench.requests := r :: rest } = step { s with bench.requests := r' :: rest }

/-! ### The step -/

/-- 30_encoding R101, 20_memory R72, R73: a step of an idle engine with a request that decodes to `i` is `exec` of `i`,
the request taken, the engine busy, the last response no longer announced. The list of requests, the atomic step and the
fall of `rsp_valid` are the model's reading (log entries 5, 6, 17). -/
def Obligations.StepRunsTheDecodedRequest : Prop :=
  ∀ (s : State) (r : BitVec 20) (rest : List (BitVec 20)) (i : Instr),
    s.sequencer.busy = false → s.bench.requests = r :: rest → decode (.request r) = .ok i →
    step s = exec i { s with bench.requests := rest, sequencer.busy := true, response.pending := false }

/-- 10_state R40, 42 R160: a step of a busy engine whose step list calls `issueCommand` of an opcode is `exec` of the
wire command that the opcode decodes to, the call taken off the list. The item-by-item step is the model's reading (log
entries 6, 7). -/
def Obligations.BusyStepRunsTheCalledWireCommand : Prop :=
  ∀ (s : State) (c : CmdSel) (rest : List Item) (i : Instr),
    s.sequencer.busy = true → s.sequencer.seq = .command c :: rest →
    decode (.command (opcodeOf c)) = .ok i →
    step s = exec i { s with sequencer.seq := rest }

/-- The model's placement (log entries 5, 7): a table word that decodes to `i`, placed with `withFetchWord`, is what the
next step runs; the state `exec` gets differs from `s` in the port and the sequencer only. -/
def Obligations.StepRunsThePlacedTableWord : Prop :=
  ∀ (s : State) (nbits w : Nat) (i : Instr), decodeTableWord nbits w = some i →
    ∃ t, step (s.withFetchWord nbits w) = exec i t ∧
      t.session = s.session ∧ t.lines = s.lines ∧ t.datapath = s.datapath ∧ t.bench = s.bench ∧
      t.params = s.params ∧ t.response.ok = s.response.ok ∧ t.response.data = s.response.data ∧
      t.sequencer = { busy := true, seq := [] }

/-- 30_encoding R104: an idle engine answers a reserved request code with the failure response; the request is used up and
nothing else changes. -/
def Obligations.ReservedRequestIsAnsweredWithFailure : Prop :=
  ∀ (s : State) (r : BitVec 20) (rest : List (BitVec 20)),
    s.sequencer.busy = false → s.bench.requests = r :: rest → requestAssigned r = false →
    step s = .next { concluded [] false 0xFFFF#16 s with bench.requests := rest }

/-- 70 R291, 30_encoding R101: an idle engine without a request stays idle and changes nothing but `rsp_valid`, which is 1
for one cycle. That an idle engine has such a step is the model's choice (log entries 5, 17). -/
def Obligations.IdleEngineWaitsForARequest : Prop :=
  ∀ s : State, s.sequencer.busy = false → s.bench.requests = [] →
    step s = .next { s with response.pending := false }

/-- 60_exceptions R255, R256: every step of every state answers a next state, and so does every instruction. -/
def Obligations.NothingEverFaultsOrIsRefused : Prop :=
  (∀ s : State, ∃ t, step s = .next t) ∧ (∀ (i : Instr) (s : State), ∃ t, exec i s = .next t)

/-! ### Failures -/

/-- 60_exceptions R251, R253, 10_state R29: each of the five guarded operations outside ProgrammingMode is answered with
`ok = 0`, `data = 0xFFFF`, with an empty trace and every register and line as before; the four transitions never fail. -/
def Obligations.InvalidStateCallChangesNothing : Prop :=
  (∀ (i : Instr) (s : State), isGuarded i = true → s.session.inProgrammingMode = false →
    exec i s = .next (concluded [] false 0xFFFF#16 s)) ∧
  (∀ (i : Instr) (s : State), isTransition i = true →
    ∃ t, exec i s = .next t ∧ t.response = answered true 0x0000#16)

/-! ### The power/mode state machine -/

/-- 43_power_mode R183: `setPower(true)` from each starting state: the whole next state. -/
def Obligations.SetPowerTrueEntersPowered : Prop :=
  ∀ (ig : BitVec 15) (s : State),
    (s.session.inProgrammingMode = false → s.session.hasPower = false →
      exec (.setPowerTrue ig) s = .next (concluded U true 0x0000#16
        { s with session.hasPower := true, lines.outVDD := true, datapath.dlycnt := 0#15 })) ∧
    (s.session.inProgrammingMode = false → s.session.hasPower = true →
      exec (.setPowerTrue ig) s = .next (concluded [] true 0x0000#16 s)) ∧
    (s.session.inProgrammingMode = true →
      exec (.setPowerTrue ig) s = .next (concluded (X ++ U) true 0x0000#16
        { s with
          session.hasPower := true
          session.inProgrammingMode := false
          lines := { Lines.reset with outVDD := true }
          datapath.dlycnt := 0#15 }))

/-- 43_power_mode R184: `setPower(false)` from each starting state: the whole next state. -/
def Obligations.SetPowerFalseEntersUnpowered : Prop :=
  ∀ (ig : BitVec 15) (s : State),
    (s.session.inProgrammingMode = false → s.session.hasPower = false →
      exec (.setPowerFalse ig) s = .next (concluded [] true 0x0000#16 s)) ∧
    (s.session.inProgrammingMode = false → s.session.hasPower = true →
      exec (.setPowerFalse ig) s = .next (concluded D true 0x0000#16
        { s with session.hasPower := false, lines.outVDD := false, datapath.dlycnt := 0#15 })) ∧
    (s.session.inProgrammingMode = true →
      exec (.setPowerFalse ig) s = .next (concluded X true 0x0000#16
        { s with
          session.hasPower := false
          session.inProgrammingMode := false
          lines := Lines.reset
          datapath.dlycnt := 0#15 }))

/-- 43_power_mode R185, R186: `setProgrammingMode(true)` from each starting state: the whole next state. -/
def Obligations.SetProgrammingModeTrueEntersProgrammingMode : Prop :=
  ∀ (ig : BitVec 15) (s : State),
    (s.session.inProgrammingMode = true →
      exec (.setProgrammingModeTrue ig) s = .next (concluded [] true 0x0000#16 s)) ∧
    (s.session.inProgrammingMode = false →
      exec (.setProgrammingModeTrue ig) s = .next (concluded
        (if s.session.hasPower then D ++ E else E) true 0x0000#16
        { s with
          session.hasPower := true
          session.inProgrammingMode := true
          session.location := -1
          lines := { outVDD := true, outVPP := true, dirCLK := .out, outCLK := false, dirDAT := .out, outDAT := false }
          datapath.dlycnt := 0#15 }))

/-- 43_power_mode R187, R188: `setProgrammingMode(false)` runs the exit list from any state unless `EXIT_PM_GUARDED`
holds and the engine is not in ProgrammingMode; the whole next state, `location` kept. -/
def Obligations.SetProgrammingModeFalseRunsTheExitList : Prop :=
  ∀ (ig : BitVec 15) (s : State),
    (s.params.exitPmGuarded = false ∨ s.session.inProgrammingMode = true →
      exec (.setProgrammingModeFalse ig) s = .next (concluded X true 0x0000#16
        { s with
          session.hasPower := false
          session.inProgrammingMode := false
          lines := Lines.reset
          datapath.dlycnt := 0#15 })) ∧
    (s.params.exitPmGuarded = true → s.session.inProgrammingMode = false →
      exec (.setProgrammingModeFalse ig) s = .next (concluded [] true 0x0000#16 s))

/-- 43_power_mode R189: the transition table with `EXIT_PM_GUARDED = false`: from a boundary in each mode, each transition
gives the cell's next state, trace and minimum duration; the other five host operations leave the mode unchanged. -/
def Obligations.TransitionTableHolds : Prop :=
  (∀ (m m' : Mode) (i : Instr) (events : List Event) (d : Nat) (s : State),
    AtMode m s → s.params.exitPmGuarded = false → transition m i = some (m', events, d) →
    ∃ t, exec i s = .next t ∧ AtMode m' t ∧ t.bench.trace = s.bench.trace ++ events ∧ minDuration events = d) ∧
  (∀ (m : Mode) (i : Instr) (s : State), AtMode m s → isGuarded i = true →
    ∃ t, exec i s = .next t ∧ AtMode m t)

/-- 10_state R48, 60_exceptions R263: the two status flags are written by the four transitions only. -/
def Obligations.OnlyTransitionsWriteTheFlags : Prop :=
  ∀ (i : Instr) (s t : State), exec i s = .next t → isTransition i = false →
    t.session.hasPower = s.session.hasPower ∧ t.session.inProgrammingMode = s.session.inProgrammingMode

/-- 10_state R28: in each of the four step lists of a transition there is a place before which no Session field has been
written and after which no primitive is performed: the flags (and `location` on entry) are written after all waits. -/
def Obligations.FlagsAreWrittenAfterTheWaits : Prop :=
  ∀ body ∈ [enterPM, exitPM, powerUp, powerDown], ∃ n : Nat, ∀ (k : Nat) (s : State),
    (k ≤ n → (applyAll (body.take k) s).session = s.session) ∧
    (n ≤ k → (applyAll (body.take k) s).bench.trace = (applyAll (body.take n) s).bench.trace ∧
      (applyAll (body.take k) s).lines = (applyAll (body.take n) s).lines)

/-! ### The address tracker -/

/-- 44_address_tracker R211: `incAddress()`: the failure outside ProgrammingMode; inside, the command, the wait, and
`location` advanced by one modulo `memoryLength`; the whole next state, 37 events, at least 23 microseconds. -/
def Obligations.IncAddressAdvancesLocation : Prop :=
  ∀ (ig : BitVec 16) (s : State),
    (s.session.inProgrammingMode = false →
      exec (.incAddress ig) s = .next (concluded [] false 0xFFFF#16 s)) ∧
    (s.session.inProgrammingMode = true → sessionOk s.params.locW s.session →
      exec (.incAddress ig) s = .next (concluded (CMD .incAddr ++ [.dly 5]) true 0x0000#16
          { s with
            session.location := (s.session.location + 1) % (s.session.memoryLength : Int)
            lines.outCLK := false
            lines.outDAT := false
            datapath := { s.datapath with sr := 0#16, bitcnt := 0#5, cmdsel := .incAddr, dlycnt := 0#15 } })) ∧
    (CMD .incAddr ++ [Event.dly 5]).length = 37 ∧ minDuration (CMD .incAddr ++ [Event.dly 5]) = 23

/-- 44_address_tracker R212, R215, 10_state R23: for every width of the register and over the whole range of `location`,
the register holds the value, the left operand of `mod` lies in `0 .. memoryLength`, and the incrementer's result is the
comparator form's and lies in `0 .. memoryLength-1`. -/
def Obligations.IncrementerEqualsComparatorForm : Prop :=
  ∀ (locW ml : Nat) (loc : Int), memoryLengthOk locW ml = true → -1 ≤ loc → loc < ml →
    narrow locW loc = loc ∧
    0 ≤ loc + 1 ∧ loc + 1 ≤ ml ∧
    nextLocation locW ml loc = (if loc = (ml : Int) - 1 then 0 else loc + 1) ∧
    0 ≤ nextLocation locW ml loc ∧ nextLocation locW ml loc < ml

/-- 44_address_tracker R213: after entry and `n` successful calls of `incAddress()`, `location` is -1 if `n = 0` and
`(n - 1) mod memoryLength` otherwise. -/
def Obligations.IncAddressClosedForm : Prop :=
  ∀ (ig : BitVec 16) (n : Nat) (s : State),
    s.session.inProgrammingMode = true → memoryLengthOk s.params.locW s.session.memoryLength = true →
    s.session.location = -1 →
    ∃ t, execTimes (.incAddress ig) n s = .next t ∧
      t.session.location = (if n = 0 then -1 else ((n : Int) - 1) % (s.session.memoryLength : Int))

/-- 20_memory R63, 44 R210: `location` is written by `incAddress` and by entry into ProgrammingMode only, entry always
writes -1, and no instruction writes `memoryLength` (10_state R24), `EXIT_PM_GUARDED` or `LOC_W`. -/
def Obligations.OnlyEntryAndIncAddressWriteLocation : Prop :=
  ∀ (i : Instr) (s t : State), exec i s = .next t →
    t.session.memoryLength = s.session.memoryLength ∧ t.params = s.params ∧
    (t.session.location = s.session.location ∨
      (∃ ig, i = .incAddress ig) ∨
      ((∃ ig, i = .setProgrammingModeTrue ig) ∧ t.session.location = -1))

/-! ### The programming operations -/

/-- 45 R220, R221 with 41 R144 and 20_memory R67: `readWord`: the failure outside ProgrammingMode; inside, the sixteen
levels the environment answers (the listed ones as far as they go) make `raw`, the k-th at bit `k-1`; the response is
`raw` or its middle fourteen bits; the whole next state, 119 events, at least 183 microseconds. How the answers are listed,
and the free value where they are not, is the model's (log entry 4). -/
def Obligations.ReadWordReturnsTheSampledLevels : Prop :=
  ∀ (f : Bool) (ig : BitVec 15) (s : State),
    (s.session.inProgrammingMode = false →
      exec (.readWord f ig) s = .next (concluded [] false 0xFFFF#16 s)) ∧
    (s.session.inProgrammingMode = true →
      ∃ (levels : List Level) (raw : Word) (events : List Event),
        levels.length = 16 ∧
        (∀ (k : Nat) (b : Level), k < 16 → s.bench.datIn[k]? = some b → levels[k]? = some b) ∧
        (∀ k : Nat, k < 16 → levels[k]? = some (raw.getLsbD k)) ∧
        events = CMD .readDataPm ++ [.dir .dat .inp, .dly 5] ++ pulsesIn levels ++ [.dir .dat .out] ∧
        events.length = 119 ∧ minDuration events = 183 ∧
        exec (.readWord f ig) s = .next (concluded events true (if f then raw else (raw >>> 1) &&& 0x3FFF#16)
          { s with
            lines := { s.lines with outCLK := false, outDAT := false, dirDAT := .out }
            datapath := { sr := 0#16, acc := raw, bitcnt := 0#5, cmdsel := .readDataPm, dlycnt := 0#15 }
            bench.datIn := s.bench.datIn.drop 16
            bench.samples := s.bench.samples + 16 }))

/-- 45 R225: for the same sixteen answers, `readWord(false)` is `(readWord(true) >> 1) & 0x3FFF`. -/
def Obligations.ReadWordFormsAgree : Prop :=
  ∀ (ig ig' : BitVec 15) (s : State), s.session.inProgrammingMode = true →
    ∃ t u, exec (.readWord true ig) s = .next t ∧ exec (.readWord false ig') s = .next u ∧
      t.response.ok = true ∧ u.response.ok = true ∧
      u.response.data = (t.response.data >>> 1) &&& 0x3FFF#16

/-- 45 R220, R222 with 20_memory R66: `writeWord(w)`: the failure outside ProgrammingMode; inside, the command, the wait,
the sixteen-pulse frame of `w[13:0]` and the final `WR(DAT,0)`; the whole next state, 134 events, at least 71
microseconds; bits 15 and 14 of `w` have no effect. -/
def Obligations.WriteWordSendsTheFrame : Prop :=
  ∀ (w : Word) (s : State),
    (s.session.inProgrammingMode = false →
      exec (.writeWord w) s = .next (concluded [] false 0xFFFF#16 s)) ∧
    (s.session.inProgrammingMode = true →
      ∃ events : List Event,
        events = CMD .loadDataPm ++ [.dly 5] ++ pulsesOut (frameBits w) ++ [.wr .dat false] ∧
        events.length = 134 ∧ minDuration events = 71 ∧
        exec (.writeWord w) s = .next (concluded events true 0x0000#16
          { s with
            lines.outCLK := false
            lines.outDAT := false
            datapath := { s.datapath with sr := 0#16, bitcnt := 0#5, cmdsel := .loadDataPm, dlycnt := 0#15 } })) ∧
    exec (.writeWord w) s = exec (.writeWord (w &&& 0x3FFF#16)) s

/-- 45 R220, R223: `burn()`: the failure outside ProgrammingMode; inside, Begin Programming, its hold, End Programming, its
hold; the whole next state, 74 events, at least 11036 microseconds. -/
def Obligations.BurnCommitsWithBothHolds : Prop :=
  ∀ (ig : BitVec 16) (s : State),
    (s.session.inProgrammingMode = false →
      exec (.burn ig) s = .next (concluded [] false 0xFFFF#16 s)) ∧
    (s.session.inProgrammingMode = true →
      exec (.burn ig) s = .next (concluded (CMD .beginProg ++ [.dly 10000] ++ CMD .endProg ++ [.dly 1000]) true 0x0000#16
        { s with
          lines.outCLK := false
          lines.outDAT := false
          datapath := { s.datapath with sr := 0#16, bitcnt := 0#5, cmdsel := .endProg, dlycnt := 0#15 } })) ∧
    (CMD .beginProg ++ [Event.dly 10000] ++ CMD .endProg ++ [Event.dly 1000]).length = 74 ∧
    minDuration (CMD .beginProg ++ [Event.dly 10000] ++ CMD .endProg ++ [Event.dly 1000]) = 11036

/-- 45 R220, R224: `erase()`: the failure outside ProgrammingMode; inside, Bulk Erase and its hold; the whole next state,
37 events, at least 20018 microseconds. -/
def Obligations.EraseHoldsForEraseTime : Prop :=
  ∀ (ig : BitVec 16) (s : State),
    (s.session.inProgrammingMode = false →
      exec (.erase ig) s = .next (concluded [] false 0xFFFF#16 s)) ∧
    (s.session.inProgrammingMode = true →
      exec (.erase ig) s = .next (concluded (CMD .bulkErase ++ [.dly 20000]) true 0x0000#16
        { s with
          lines.outCLK := false
          lines.outDAT := false
          datapath := { s.datapath with sr := 0#16, bitcnt := 0#5, cmdsel := .bulkErase, dlycnt := 0#15 } })) ∧
    (CMD .bulkErase ++ [Event.dly 20000]).length = 37 ∧ minDuration (CMD .bulkErase ++ [Event.dly 20000]) = 20018

/-- 45 R227: from a boundary in ProgrammingMode the four programming operations, and `incAddress`, write no rail and leave
the six bits of the line state as they found them; only `readWord` changes a direction. -/
def Obligations.ProgrammingOperationsRestoreTheLines : Prop :=
  ∀ (i : Instr) (s : State), AtMode .programmingMode s → isGuarded i = true →
    ∃ (t : State) (events : List Event), exec i s = .next t ∧ t.lines = s.lines ∧
      t.bench.trace = s.bench.trace ++ events ∧
      (∀ v, Event.wr .vdd v ∉ events ∧ Event.wr .vpp v ∉ events) ∧
      ((∀ f ig, i ≠ .readWord f ig) → ∀ l d, Event.dir l d ∉ events) ∧
      t.response.ok = true

/-- 45 R226: if the environment answers the k-th sample of a read frame with the level written in the k-th pulse of the
preceding write frame, then `raw = framed` and `readWord(false)` after `writeWord(w)` returns `w & 0x3FFF`; `raw` is the
value `shiftIn` leaves in `ACC`. The written levels are recovered from the trace of the write (30_encoding R92), after the
six bits of the command. -/
def Obligations.LoopbackRoundTrip : Prop :=
  ∀ (w : Word) (ig : BitVec 15) (s : State), s.session.inProgrammingMode = true →
    ∃ (t u : State) (events : List Event) (levels : List Level),
      exec (.writeWord w) s = .next t ∧ t.bench.trace = s.bench.trace ++ events ∧
      (wireBits false events).drop 6 = levels.map WireBit.sent ∧ levels.length = 16 ∧
      exec (.readWord false ig) { t with bench.datIn := levels } = .next u ∧
      u.datapath.acc = (w &&& 0x3FFF#16) <<< 1 ∧
      u.response = answered true (w &&& 0x3FFF#16)

/-- 95_test_vectors V14 and Part 3: `LoopTarget` watches both traces from a state in which it collects commands with
nothing recorded. After `writeWord(w)` and the events of `readWord` up to `DIR(DAT,in), DLY(5)` it is at the start of a read
frame with `w[13:0]` in its latch; the levels answered are the sixteen it then answers, and it answers each `RD(DAT)` with
the level it presents at that moment; after the read it collects commands again. `readWord(false)` returns `w & 0x3FFF` and
`readWord(true)` the framed word. How the answers are listed is the model's (log entry 4). -/
def Obligations.LoopTargetRoundTrip : Prop :=
  ∀ (w : Word) (f : Bool) (ig : BitVec 15) (s : State), s.session.inProgrammingMode = true →
    (LoopTarget.after s.bench.trace).phase = .command → (LoopTarget.after s.bench.trace).bits = [] →
    (LoopTarget.after s.bench.trace).clk = false →
    ∃ (t u : State) (command : List Event) (levels : List Level) (seen : LoopTarget),
      exec (.writeWord w) s = .next t ∧
      exec (.readWord f ig) { t with bench.datIn := levels } = .next u ∧
      u.bench.trace = t.bench.trace ++ (command ++ [.dir .dat .inp, .dly 5]) ++ (pulsesIn levels ++ [.dir .dat .out]) ∧
      seen = LoopTarget.after (t.bench.trace ++ (command ++ [.dir .dat .inp, .dly 5])) ∧
      seen.phase = .readFrame 16 ∧ seen.latch = w.setWidth 14 ∧ levels = seen.answers ∧
      seen.answersAll (pulsesIn levels ++ [.dir .dat .out]) = true ∧
      (LoopTarget.after u.bench.trace).phase = .command ∧
      u.response = answered true (if f then (w &&& 0x3FFF#16) <<< 1 else w &&& 0x3FFF#16)

/-- 30_encoding R92, R93, 42 R169: the bits a trace decoder recovers from each operation in ProgrammingMode: the command's
six in wire order, then the frame's sixteen where one follows. -/
def Obligations.TraceDecodesToCommandAndFrame : Prop :=
  ∀ (s : State), s.session.inProgrammingMode = true →
    (∀ w : Word, ∃ (t : State) (events : List Event), exec (.writeWord w) s = .next t ∧
      t.bench.trace = s.bench.trace ++ events ∧
      wireBits false events = (commandBits .loadDataPm ++ frameBits w).map WireBit.sent) ∧
    (∀ (f : Bool) (ig : BitVec 15), ∃ (t : State) (events : List Event) (levels : List Level),
      exec (.readWord f ig) s = .next t ∧ t.bench.trace = s.bench.trace ++ events ∧ levels.length = 16 ∧
      wireBits false events = (commandBits .readDataPm).map WireBit.sent ++ levels.map WireBit.received) ∧
    (∀ ig : BitVec 16, ∃ (t : State) (events : List Event), exec (.incAddress ig) s = .next t ∧
      t.bench.trace = s.bench.trace ++ events ∧ wireBits false events = (commandBits .incAddr).map WireBit.sent) ∧
    (∀ ig : BitVec 16, ∃ (t : State) (events : List Event), exec (.burn ig) s = .next t ∧
      t.bench.trace = s.bench.trace ++ events ∧
      wireBits false events = (commandBits .beginProg ++ commandBits .endProg).map WireBit.sent) ∧
    (∀ ig : BitVec 16, ∃ (t : State) (events : List Event), exec (.erase ig) s = .next t ∧
      t.bench.trace = s.bench.trace ++ events ∧ wireBits false events = (commandBits .bulkErase).map WireBit.sent)

/-! ### The command encoder and the serializer -/

/-- 42 R160 to R168: each wire command is emitted as the six pulses of its opcode; the whole next state: no Session field,
rail, direction or response changes, and both latches end at 0. 36 events, at least 18 microseconds. The six constructors
are `loadDataPm`, `readDataPm`, `incAddr`, `beginProg`, `bulkErase`, `endProg`; that such an instruction is the call of
`issueCommand` alone is the model's reading (log entry 7). -/
def Obligations.WireCommandSendsSixPulses : Prop :=
  ∀ (c : CmdSel) (s : State),
    exec (commandInstr c) s = .next { s with
      lines.outCLK := false
      lines.outDAT := false
      datapath := { s.datapath with sr := 0#16, bitcnt := 0#5, cmdsel := c, dlycnt := 0#15 }
      bench.trace := s.bench.trace ++ CMD c } ∧
    commandBits c = lsbFirst 6 ((opcodeOf c).setWidth 16) ∧
    (CMD c).length = 36 ∧ minDuration (CMD c) = 18

/-- 41 R141, R142: `shiftOut(value, n)` for every `n` up to 16: `6n` events, the bits least significant first, at least
`3n` microseconds; the whole next state. -/
def Obligations.ShiftOutSendsLeastSignificantFirst : Prop :=
  ∀ (v : Word) (n : Nat) (s : State), n ≤ 16 →
    applyAll (shiftOut v n) s = { s with
      lines := if n = 0 then s.lines else { s.lines with outCLK := false, outDAT := v.getLsbD (n - 1) }
      datapath := { s.datapath with
        sr := v >>> n, bitcnt := 0#5, dlycnt := if n = 0 then s.datapath.dlycnt else 0#15 }
      bench.trace := s.bench.trace ++ pulsesOut (lsbFirst n v) } ∧
    (pulsesOut (lsbFirst n v)).length = 6 * n ∧ minDuration (pulsesOut (lsbFirst n v)) = 3 * n

/-- 41 R143 to R146: `shiftIn(n)` for every `n` up to 16: `5n` events, at least `10n` microseconds, the k-th listed level
(from 0) at bit `16 - n + k` and zeros below; the lines but `CLK`'s latch, and `SR`, unchanged. The place of the bits for
`n` below 16 is the spec's own decision (R145, D11); that the answers are listed in `datIn`, used up and counted is the
model's choice (log entry 4). -/
def Obligations.ShiftInCollectsInOrderOfReceipt : Prop :=
  ∀ (levels rest : List Level) (s : State), levels.length ≤ 16 → s.bench.datIn = levels ++ rest →
    ∃ acc : Word,
      (∀ k : Nat, k < 16 → acc.getLsbD k =
        (if k < 16 - levels.length then false else levels.getD (k - (16 - levels.length)) false)) ∧
      applyAll (shiftIn levels.length) s = { s with
        lines := if levels = [] then s.lines else { s.lines with outCLK := false }
        datapath := { s.datapath with
          acc := acc, bitcnt := 0#5, dlycnt := if levels = [] then s.datapath.dlycnt else 0#15 }
        bench.trace := s.bench.trace ++ pulsesIn levels
        bench.datIn := rest
        bench.samples := s.bench.samples + levels.length } ∧
      (pulsesIn levels).length = 5 * levels.length ∧ minDuration (pulsesIn levels) = 10 * levels.length

/-! ### Invariants -/

/-- 00_scope R7, 10_state R24, R50, 70 R290: construction refuses exactly the lengths outside `1 .. 2^(LOC_W-1)` and
otherwise gives the reset state: every value the table of R50 states, an empty trace, the invariant of an operation
boundary; `State.reset` is one such construction, with a length the model chose (log entry 1). `CMDSEL` and `SEQ` are
unspecified in R50: the first is not stated, and that `SEQ` is the empty list at a boundary is the model's choice (log
entry 8). -/
def Obligations.ConstructionGivesTheResetState : Prop :=
  (∀ (ml : Nat) (params : Params), memoryLengthOk params.locW ml = false → State.construct ml params = none) ∧
  (∀ (ml : Nat) (params : Params), memoryLengthOk params.locW ml = true → ∃ s, State.construct ml params = some s ∧
    s.session = { hasPower := false, inProgrammingMode := false, location := -1, memoryLength := ml } ∧
    s.lines = { outVDD := false, outVPP := false, dirCLK := .inp, outCLK := false, dirDAT := .inp, outDAT := false } ∧
    s.datapath.sr = 0#16 ∧ s.datapath.acc = 0#16 ∧ s.datapath.bitcnt = 0#5 ∧ s.datapath.dlycnt = 0#15 ∧
    s.sequencer.busy = false ∧ s.response = { ok := false, data := 0x0000#16, pending := false } ∧
    s.bench.trace = [] ∧ s.params = params ∧ AtMode .unpowered s) ∧
  (∃ ml, State.construct ml { exitPmGuarded := false, locW := 16 } = some State.reset)

/-- `State.reset` meets the invariants (10_state R25, R38, 43 R192). -/
def Obligations.ResetMeetsTheInvariants : Prop :=
  Boundary State.reset ∧ TraceOk State.reset

/-- 10_state R25, R38, R23: the invariant of an operation boundary is kept by every step. -/
def Obligations.StepKeepsTheBoundaryInvariant : Prop :=
  ∀ s t : State, Boundary s → step s = .next t → Boundary t

/-- 43_power_mode R192 (a) to (d): from every boundary whose trace keeps the rail order and accounts for the lines,
every step gives such a state again: `VPP` rises only with `VDD` low and `DLY(10), WR(VDD,1)` next, falls only right after
`WR(VDD,0), DLY(2)`, and is high with `VDD` low nowhere else; every `WR(VDD, ·)` is followed within its step list by waits
of at least 20000 microseconds, but the one inside `E` by 10. -/
def Obligations.StepKeepsTheRailOrder : Prop :=
  ∀ s t : State, Boundary s → TraceOk s → step s = .next t → TraceOk t

/-- 70 R290, R293: the reset input forces the values of R50 from an idle engine in `Unpowered`, keeps the parameters and
starts an empty trace; in any other state the model has no step for it (log entry 12). -/
def Obligations.ResetStepsOnlyFromIdleUnpowered : Prop :=
  ∀ (inp : PortsIn) (s : State), inp.rst = true →
    (s.sequencer.busy = false → modeOf s.session = some .unpowered →
      ∃ t, clock inp s = .next t ∧
        t.session = { hasPower := false, inProgrammingMode := false, location := -1,
                      memoryLength := s.session.memoryLength } ∧
        t.lines = Lines.reset ∧ t.params = s.params ∧ t.sequencer.busy = false ∧
        t.response = { ok := false, data := 0x0000#16, pending := false } ∧
        t.datapath.sr = 0#16 ∧ t.datapath.acc = 0#16 ∧ t.datapath.bitcnt = 0#5 ∧ t.datapath.dlycnt = 0#15 ∧
        t.bench.trace = []) ∧
    (s.sequencer.busy = true ∨ modeOf s.session ≠ some .unpowered →
      clock inp s = .refused .resetOutsideIdleUnpowered)

/-! ### The sequencer and the clocked layer -/

/-- 10_state R40, 20_memory R72: taking an accepted operation item by item, step after step, ends in the state the atomic
operation gives. The item-by-item step is the model's reading (log entry 6). -/
def Obligations.ItemwiseStepsReachTheAtomicResult : Prop :=
  ∀ (i : Instr) (items : List Item) (s : State),
    hostSteps i = some items → s.sequencer.seq = [] →
    ∃ (n : Nat) (t : State), exec i s = .next t ∧ core.run n (beginOp items s) = .next t

/-- 40_timing_table R121, R135: while `DLYCNT` holds `n`, the clocked engine performs nothing through any cycles that bring
fewer than `n` ticks; only `DLYCNT` counts down. That `n` ticks are counted is one of the two ways R135 allows, the model's
choice (log entry 9). -/
def Obligations.ClockedWaitIsHonoured : Prop :=
  ∀ (ins : List PortsIn) (s : State),
    s.sequencer.busy = true → (ins.filter (·.tickUs)).length < s.datapath.dlycnt.toNat →
    clockRun ins s = { s with
      datapath.dlycnt := s.datapath.dlycnt - BitVec.ofNat 15 (ins.filter (·.tickUs)).length }

/-- 30_encoding R101, R104: at the port, a request presented while busy has no effect; an idle engine accepts one, and is
busy from the next cycle, unless its code is reserved, which is answered at once, in the same cycle by the model's choice
(log entry 18). -/
def Obligations.PortHandshake : Prop :=
  (∀ (inp : PortsIn) (s : State) (v : Bool) (op : BitVec 4) (arg : Word), s.sequencer.busy = true →
    clockRunning inp s = clockRunning { inp with reqValid := v, reqOp := op, reqArg := arg } s) ∧
  (∀ (inp : PortsIn) (s : State), s.sequencer.busy = false → inp.reqValid = true →
    (requestAssigned (requestWord inp) = true →
      (clockRunning inp s).sequencer.busy = true ∧ (clockRunning inp s).bench.trace = s.bench.trace) ∧
    (requestAssigned (requestWord inp) = false →
      clockRunning inp s = concluded [] false 0xFFFF#16 s))

/-- 20_memory R72, R73, 30_encoding R101, 40 R135, 60_exceptions R266: a request accepted at the port of an idle engine and
clocked, with any pattern of ticks and any levels on `DAT_I`, to the first cycle in which the engine is idle again ends in
the state that `exec` gives where the environment answers the k-th `RD(DAT)` with the level on `DAT_I` in the cycle in which
the k-th `RD(DAT)` is performed, and gives no other answers: trace, response, Session, lines and datapath. One item a cycle
is the model's choice (log entry 18). -/
def Obligations.ClockedOperationRefinesExec : Prop :=
  ∀ (s : State) (first : PortsIn) (ins : List PortsIn) (i : Instr),
    Idle s → first.reqValid = true → decode (.request (requestWord first)) = .ok i →
    (∀ k : Nat, k < ins.length → (clockRun (first :: ins.take k) s).sequencer.busy = true) →
    (clockRun (first :: ins) s).sequencer.busy = false →
    ∃ t : State, exec i { s with bench.datIn := levelsAtPin (first :: ins) s } = .next t ∧
      t.bench.datIn = [] ∧
      clockRun (first :: ins) s = { t with bench.datIn := s.bench.datIn }

/-- 70 R316, 40 R121: with a tick in every cycle, every accepted operation reaches its response. One item a cycle is the model's
choice (log entry 18); no bound is claimed. -/
def Obligations.ClockedOperationCompletes : Prop :=
  ∀ (s : State) (first tick : PortsIn) (i : Instr),
    Idle s → first.reqValid = true → decode (.request (requestWord first)) = .ok i → tick.tickUs = true →
    tick.reqValid = false →
    ∃ n : Nat, (clockRun (first :: List.replicate n tick) s).sequencer.busy = false ∧
      (clockRun (first :: List.replicate n tick) s).response.pending = true

/-- 10_state R33 to R36, R38, 43 R180: the pins at a boundary in each of the three modes: rails as the mode says, both bus
pins high-impedance outside ProgrammingMode and driven low inside. -/
def Obligations.PinsFollowTheMode : Prop :=
  ∀ s : State,
    (AtMode .unpowered s → (pins s).vddEn = false ∧ (pins s).vppEn = false ∧
      clkPin s.lines = none ∧ datPin s.lines = none) ∧
    (AtMode .powered s → (pins s).vddEn = true ∧ (pins s).vppEn = false ∧
      clkPin s.lines = none ∧ datPin s.lines = none) ∧
    (AtMode .programmingMode s → (pins s).vddEn = true ∧ (pins s).vppEn = true ∧
      clkPin s.lines = some false ∧ datPin s.lines = some false)
end

