-- ==== Sys2Proof/Laws/Decode.lean ====
section
/-! SUPPORT. The fields of a request word put together and taken apart (30_encoding R100, R103). -/

namespace Sys2Proof

/-- A bit of a request word `{op, arg}`. -/
theorem getLsbD_request (op : BitVec 4) (arg : Word) (k : Nat) :
    BitVec.getLsbD (w := 20) (op ++ arg) k = if k < 16 then arg.getLsbD k else op.getLsbD (k - 16) :=
  (BitVec.getLsbD_append (x := op) (y := arg) (i := k)).trans (by split <;> simp_all)

/-- A bit of an argument `{ignored, flag}`. -/
theorem getLsbD_arg (ig : BitVec 15) (b : BitVec 1) (k : Nat) :
    BitVec.getLsbD (w := 16) (ig ++ b) k = if k < 1 then b.getLsbD k else ig.getLsbD (k - 1) :=
  (BitVec.getLsbD_append (x := ig) (y := b) (i := k)).trans (by split <;> simp_all)

@[simp] theorem requestOp_append (op : BitVec 4) (arg : Word) : requestOp (op ++ arg) = op := by
  apply BitVec.eq_of_getLsbD_eq
  intro k hk
  simp [requestOp, getLsbD_request, hk]

@[simp] theorem requestArg_append (op : BitVec 4) (arg : Word) : requestArg (op ++ arg) = arg := by
  apply BitVec.eq_of_getLsbD_eq
  intro k hk
  simp [requestArg, getLsbD_request, hk]

/-- A request word with a flag in its argument, bracketed as `{op, {ignored, flag}}`. -/
theorem request_assoc (op : BitVec 4) (ig : BitVec 15) (b : BitVec 1) :
    (op ++ ig ++ b : BitVec 20) = op ++ (ig ++ b : BitVec 16) := by
  have h := BitVec.append_assoc (x₁ := op) (x₂ := ig) (x₃ := b)
  simpa using h

@[simp] theorem argFlag_append (ig : BitVec 15) (b : BitVec 1) : argFlag (ig ++ b) = b.getLsbD 0 := by
  simp only [argFlag, getLsbD_arg]
  rfl

@[simp] theorem argIgnored_append (ig : BitVec 15) (b : BitVec 1) : argIgnored (ig ++ b) = ig := by
  apply BitVec.eq_of_getLsbD_eq
  intro k hk
  simp [argIgnored, getLsbD_arg, hk]

/-- A request word is its `op` and its `arg` (R100). -/
theorem request_eq_append (r : BitVec 20) : requestOp r ++ requestArg r = r := by
  apply BitVec.eq_of_getLsbD_eq
  intro k hk
  rw [getLsbD_request, requestOp, requestArg, BitVec.getLsbD_extractLsb', BitVec.getLsbD_extractLsb']
  by_cases h : k < 16
  · simp [h]
  · simp [h, show k - 16 < 4 by omega, show 16 + (k - 16) = k by omega]

/-- An argument is its ignored bits and its flag (R103). -/
theorem arg_eq_append (arg : Word) : argIgnored arg ++ BitVec.ofBool (argFlag arg) = arg := by
  apply BitVec.eq_of_getLsbD_eq
  intro k hk
  rw [getLsbD_arg, argIgnored, argFlag, BitVec.getLsbD_extractLsb', BitVec.getLsbD_ofBool]
  by_cases h : k = 0
  · subst h; simp
  · simp [show ¬ k < 1 by omega, show k - 1 < 15 by omega, show 1 + (k - 1) = k by omega]

theorem commandOf_opcodeOf (c : CmdSel) : commandOf (opcodeOf c) = some c := by
  cases c <;> rfl

end Sys2Proof
end

