-- ==== Sys2Proof/Laws/Operands.lean ====
section
/-! SUPPORT. The register `location`: when narrowing loses nothing, and what the incrementer then gives (44_address_tracker
R211, R215). -/

namespace Sys2Proof.Machine

/-- A value in the range of a `locW`-bit two's-complement register is held as it is. -/
theorem narrow_eq_self (locW : Nat) (x : Int) (hw : 1 ≤ locW) (hlo : -(2 ^ (locW - 1)) ≤ x) (hhi : x < 2 ^ (locW - 1)) :
    narrow locW x = x := by
  obtain ⟨k, rfl⟩ : ∃ k, locW = k + 1 := ⟨locW - 1, by omega⟩
  simp only [Nat.add_sub_cancel] at hlo hhi
  have hp : (2 : Int) ^ (k + 1) = 2 * 2 ^ k := by ring
  have : (((2 ^ (k + 1) : Nat)) : Int) = 2 * 2 ^ k := by push_cast; ring
  unfold narrow
  rw [Int.bmod_eq_of_le] <;> omega

/-- With a permitted `memoryLength` the incrementer's result is the mathematically exact one (R215). -/
theorem nextLocation_eq (locW memoryLength : Nat) (location : Int)
    (h : memoryLengthOk locW memoryLength = true) :
    nextLocation locW memoryLength location = (location + 1) % (memoryLength : Int) := by
  obtain ⟨hw, hm, hb⟩ := of_decide_eq_true h
  have lo := Int.emod_nonneg (location + 1) (b := (memoryLength : Int)) (by omega)
  have hi := Int.emod_lt_of_pos (location + 1) (b := (memoryLength : Int)) (by omega)
  have hb' : (memoryLength : Int) ≤ 2 ^ (locW - 1) := by exact_mod_cast hb
  exact narrow_eq_self _ _ hw (by omega) (by omega)

end Sys2Proof.Machine
end

