-- ==== Sys2Proof/Laws/State.lean ====
section
/-! SUPPORT. What each named update does to each component of the state: one lemma a component, true by `rfl`. -/

namespace Sys2Proof.Machine

variable (s : State)

/-! ### `emit` -/

@[simp] theorem emit_session (e : Event) : (emit e s).session = s.session := rfl
@[simp] theorem emit_lines (e : Event) : (emit e s).lines = s.lines := rfl
@[simp] theorem emit_datapath (e : Event) : (emit e s).datapath = s.datapath := rfl
@[simp] theorem emit_sequencer (e : Event) : (emit e s).sequencer = s.sequencer := rfl
@[simp] theorem emit_response (e : Event) : (emit e s).response = s.response := rfl
@[simp] theorem emit_bench (e : Event) : (emit e s).bench = { s.bench with trace := s.bench.trace ++ [e] } := rfl
@[simp] theorem emit_params (e : Event) : (emit e s).params = s.params := rfl

/-! ### `primDir` -/

@[simp] theorem primDir_session (l : BusLine) (d : Dir) : (primDir l d s).session = s.session := rfl
@[simp] theorem primDir_lines (l : BusLine) (d : Dir) : (primDir l d s).lines = setDir l d s.lines := rfl
@[simp] theorem primDir_datapath (l : BusLine) (d : Dir) : (primDir l d s).datapath = s.datapath := rfl
@[simp] theorem primDir_sequencer (l : BusLine) (d : Dir) : (primDir l d s).sequencer = s.sequencer := rfl
@[simp] theorem primDir_response (l : BusLine) (d : Dir) : (primDir l d s).response = s.response := rfl
@[simp] theorem primDir_bench (l : BusLine) (d : Dir) : (primDir l d s).bench = { s.bench with trace := s.bench.trace ++ [.dir l d] } := rfl
@[simp] theorem primDir_params (l : BusLine) (d : Dir) : (primDir l d s).params = s.params := rfl

/-! ### `primWr` -/

@[simp] theorem primWr_session (l : Line) (v : Level) : (primWr l v s).session = s.session := rfl
@[simp] theorem primWr_lines (l : Line) (v : Level) : (primWr l v s).lines = setOut l v s.lines := rfl
@[simp] theorem primWr_datapath (l : Line) (v : Level) : (primWr l v s).datapath = s.datapath := rfl
@[simp] theorem primWr_sequencer (l : Line) (v : Level) : (primWr l v s).sequencer = s.sequencer := rfl
@[simp] theorem primWr_response (l : Line) (v : Level) : (primWr l v s).response = s.response := rfl
@[simp] theorem primWr_bench (l : Line) (v : Level) : (primWr l v s).bench = { s.bench with trace := s.bench.trace ++ [.wr l v] } := rfl
@[simp] theorem primWr_params (l : Line) (v : Level) : (primWr l v s).params = s.params := rfl

/-! ### `loadDelay` -/

@[simp] theorem loadDelay_session (n : Nat) : (loadDelay n s).session = s.session := rfl
@[simp] theorem loadDelay_lines (n : Nat) : (loadDelay n s).lines = s.lines := rfl
@[simp] theorem loadDelay_datapath (n : Nat) : (loadDelay n s).datapath = { s.datapath with dlycnt := BitVec.ofNat 15 n } := rfl
@[simp] theorem loadDelay_sequencer (n : Nat) : (loadDelay n s).sequencer = s.sequencer := rfl
@[simp] theorem loadDelay_response (n : Nat) : (loadDelay n s).response = s.response := rfl
@[simp] theorem loadDelay_bench (n : Nat) : (loadDelay n s).bench = { s.bench with trace := s.bench.trace ++ [.dly n] } := rfl
@[simp] theorem loadDelay_params (n : Nat) : (loadDelay n s).params = s.params := rfl

/-! ### `elapseDelay` -/

@[simp] theorem elapseDelay_session : (elapseDelay s).session = s.session := rfl
@[simp] theorem elapseDelay_lines : (elapseDelay s).lines = s.lines := rfl
@[simp] theorem elapseDelay_datapath : (elapseDelay s).datapath = { s.datapath with dlycnt := 0#15 } := rfl
@[simp] theorem elapseDelay_sequencer : (elapseDelay s).sequencer = s.sequencer := rfl
@[simp] theorem elapseDelay_response : (elapseDelay s).response = s.response := rfl
@[simp] theorem elapseDelay_bench : (elapseDelay s).bench = s.bench := rfl
@[simp] theorem elapseDelay_params : (elapseDelay s).params = s.params := rfl

/-! ### `sampleDat` -/

@[simp] theorem sampleDat_session (b : Level) : (sampleDat b s).session = s.session := rfl
@[simp] theorem sampleDat_lines (b : Level) : (sampleDat b s).lines = s.lines := rfl
@[simp] theorem sampleDat_datapath (b : Level) : (sampleDat b s).datapath = { s.datapath with acc := insertSample s.datapath.acc b } := rfl
@[simp] theorem sampleDat_sequencer (b : Level) : (sampleDat b s).sequencer = s.sequencer := rfl
@[simp] theorem sampleDat_response (b : Level) : (sampleDat b s).response = s.response := rfl
@[simp] theorem sampleDat_bench (b : Level) : (sampleDat b s).bench = { s.bench with trace := s.bench.trace ++ [.rd b], samples := s.bench.samples + 1 } := rfl
@[simp] theorem sampleDat_params (b : Level) : (sampleDat b s).params = s.params := rfl

/-! ### `consumeLevel` -/

@[simp] theorem consumeLevel_session : (consumeLevel s).session = s.session := rfl
@[simp] theorem consumeLevel_lines : (consumeLevel s).lines = s.lines := rfl
@[simp] theorem consumeLevel_datapath : (consumeLevel s).datapath = s.datapath := rfl
@[simp] theorem consumeLevel_sequencer : (consumeLevel s).sequencer = s.sequencer := rfl
@[simp] theorem consumeLevel_response : (consumeLevel s).response = s.response := rfl
@[simp] theorem consumeLevel_bench : (consumeLevel s).bench = { s.bench with datIn := s.bench.datIn.tail } := rfl
@[simp] theorem consumeLevel_params : (consumeLevel s).params = s.params := rfl

/-! ### `setHasPower` -/

@[simp] theorem setHasPower_session (v : Bool) : (setHasPower v s).session = { s.session with hasPower := v } := rfl
@[simp] theorem setHasPower_lines (v : Bool) : (setHasPower v s).lines = s.lines := rfl
@[simp] theorem setHasPower_datapath (v : Bool) : (setHasPower v s).datapath = s.datapath := rfl
@[simp] theorem setHasPower_sequencer (v : Bool) : (setHasPower v s).sequencer = s.sequencer := rfl
@[simp] theorem setHasPower_response (v : Bool) : (setHasPower v s).response = s.response := rfl
@[simp] theorem setHasPower_bench (v : Bool) : (setHasPower v s).bench = s.bench := rfl
@[simp] theorem setHasPower_params (v : Bool) : (setHasPower v s).params = s.params := rfl

/-! ### `setInProgrammingMode` -/

@[simp] theorem setInProgrammingMode_session (v : Bool) : (setInProgrammingMode v s).session = { s.session with inProgrammingMode := v } := rfl
@[simp] theorem setInProgrammingMode_lines (v : Bool) : (setInProgrammingMode v s).lines = s.lines := rfl
@[simp] theorem setInProgrammingMode_datapath (v : Bool) : (setInProgrammingMode v s).datapath = s.datapath := rfl
@[simp] theorem setInProgrammingMode_sequencer (v : Bool) : (setInProgrammingMode v s).sequencer = s.sequencer := rfl
@[simp] theorem setInProgrammingMode_response (v : Bool) : (setInProgrammingMode v s).response = s.response := rfl
@[simp] theorem setInProgrammingMode_bench (v : Bool) : (setInProgrammingMode v s).bench = s.bench := rfl
@[simp] theorem setInProgrammingMode_params (v : Bool) : (setInProgrammingMode v s).params = s.params := rfl

/-! ### `resetLocation` -/

@[simp] theorem resetLocation_session : (resetLocation s).session = { s.session with location := -1 } := rfl
@[simp] theorem resetLocation_lines : (resetLocation s).lines = s.lines := rfl
@[simp] theorem resetLocation_datapath : (resetLocation s).datapath = s.datapath := rfl
@[simp] theorem resetLocation_sequencer : (resetLocation s).sequencer = s.sequencer := rfl
@[simp] theorem resetLocation_response : (resetLocation s).response = s.response := rfl
@[simp] theorem resetLocation_bench : (resetLocation s).bench = s.bench := rfl
@[simp] theorem resetLocation_params : (resetLocation s).params = s.params := rfl

/-! ### `advanceLocation` -/

@[simp] theorem advanceLocation_session : (advanceLocation s).session = { s.session with location := nextLocation s.params.locW s.session.memoryLength s.session.location } := rfl
@[simp] theorem advanceLocation_lines : (advanceLocation s).lines = s.lines := rfl
@[simp] theorem advanceLocation_datapath : (advanceLocation s).datapath = s.datapath := rfl
@[simp] theorem advanceLocation_sequencer : (advanceLocation s).sequencer = s.sequencer := rfl
@[simp] theorem advanceLocation_response : (advanceLocation s).response = s.response := rfl
@[simp] theorem advanceLocation_bench : (advanceLocation s).bench = s.bench := rfl
@[simp] theorem advanceLocation_params : (advanceLocation s).params = s.params := rfl

/-! ### `reply` -/

@[simp] theorem reply_session (r : Reply) : (reply r s).session = s.session := rfl
@[simp] theorem reply_lines (r : Reply) : (reply r s).lines = s.lines := rfl
@[simp] theorem reply_datapath (r : Reply) : (reply r s).datapath = s.datapath := rfl
@[simp] theorem reply_sequencer (r : Reply) : (reply r s).sequencer = { s.sequencer with busy := false } := rfl
@[simp] theorem reply_response (r : Reply) : (reply r s).response = { ok := replyOk r, data := replyData r s.datapath.acc, pending := true } := rfl
@[simp] theorem reply_bench (r : Reply) : (reply r s).bench = { s.bench with responses := s.bench.responses ++ [(replyOk r, replyData r s.datapath.acc)] } := rfl
@[simp] theorem reply_params (r : Reply) : (reply r s).params = s.params := rfl

/-! ### `accept` -/

@[simp] theorem accept_session : (accept s).session = s.session := rfl
@[simp] theorem accept_lines : (accept s).lines = s.lines := rfl
@[simp] theorem accept_datapath : (accept s).datapath = s.datapath := rfl
@[simp] theorem accept_sequencer : (accept s).sequencer = { s.sequencer with busy := true } := rfl
@[simp] theorem accept_response : (accept s).response = { s.response with pending := false } := rfl
@[simp] theorem accept_bench : (accept s).bench = s.bench := rfl
@[simp] theorem accept_params : (accept s).params = s.params := rfl

/-! ### `setSeq` -/

@[simp] theorem setSeq_session (items : List Item) : (setSeq items s).session = s.session := rfl
@[simp] theorem setSeq_lines (items : List Item) : (setSeq items s).lines = s.lines := rfl
@[simp] theorem setSeq_datapath (items : List Item) : (setSeq items s).datapath = s.datapath := rfl
@[simp] theorem setSeq_sequencer (items : List Item) : (setSeq items s).sequencer = { s.sequencer with seq := items } := rfl
@[simp] theorem setSeq_response (items : List Item) : (setSeq items s).response = s.response := rfl
@[simp] theorem setSeq_bench (items : List Item) : (setSeq items s).bench = s.bench := rfl
@[simp] theorem setSeq_params (items : List Item) : (setSeq items s).params = s.params := rfl

/-! ### `idleCycle` -/

@[simp] theorem idleCycle_session : (idleCycle s).session = s.session := rfl
@[simp] theorem idleCycle_lines : (idleCycle s).lines = s.lines := rfl
@[simp] theorem idleCycle_datapath : (idleCycle s).datapath = s.datapath := rfl
@[simp] theorem idleCycle_sequencer : (idleCycle s).sequencer = s.sequencer := rfl
@[simp] theorem idleCycle_response : (idleCycle s).response = { s.response with pending := false } := rfl
@[simp] theorem idleCycle_bench : (idleCycle s).bench = s.bench := rfl
@[simp] theorem idleCycle_params : (idleCycle s).params = s.params := rfl

/-! ### `runOut` -/

@[simp] theorem runOut_session : (runOut s).session = s.session := rfl
@[simp] theorem runOut_lines : (runOut s).lines = s.lines := rfl
@[simp] theorem runOut_datapath : (runOut s).datapath = s.datapath := rfl
@[simp] theorem runOut_sequencer : (runOut s).sequencer = { s.sequencer with busy := false } := rfl
@[simp] theorem runOut_response : (runOut s).response = s.response := rfl
@[simp] theorem runOut_bench : (runOut s).bench = s.bench := rfl
@[simp] theorem runOut_params : (runOut s).params = s.params := rfl

end Sys2Proof.Machine
end

