-- ==== Sys2Proof/Laws/Ops.lean ====
section
/-! SUPPORT. What the shared operations do, each said once: running statements, running a step list, a pulse, a run of
pulses, a reply. Proofs about an instruction cite these and do not unfold them. -/

namespace Sys2Proof.Machine

open Sys2Proof.Safety

/-! ### Statements and step lists -/

@[simp] theorem applyAll_nil (s : State) : applyAll [] s = s := rfl

@[simp] theorem applyAll_cons (p : Prim) (ps : List Prim) (s : State) :
    applyAll (p :: ps) s = applyAll ps (applyPrim p s) := rfl

theorem applyAll_append (ps qs : List Prim) (s : State) :
    applyAll (ps ++ qs) s = applyAll qs (applyAll ps s) := by
  simp [applyAll]

/-- Statements at the head of a step list run first. -/
theorem perform_prims (ps : List Prim) (rest : List Item) (s : State) :
    perform (ps.map .prim ++ rest) s = perform rest (applyAll ps s) := by
  induction ps generalizing s with
  | nil => rfl
  | cons p ps ih => simp [perform, ih]

/-- Without a return in it, the front of a step list runs first. -/
theorem perform_append (front rest : List Item) (s : State)
    (h : ∀ it ∈ front, (∃ p, it = .prim p) ∨ (∃ c, it = .command c) ∨ (∃ c b, it = .whenDo c b)) :
    perform (front ++ rest) s = perform rest (perform front s) := by
  induction front generalizing s with
  | nil => rfl
  | cons it front ih =>
    have tl := fun t => ih t (fun j hj => h j (List.mem_cons_of_mem _ hj))
    rcases h it (by simp) with ⟨p, rfl⟩ | ⟨c, rfl⟩ | ⟨c, b, rfl⟩ <;> simp [perform, tl]

/-! ### What no statement changes -/

/-- No statement writes the sequencer, the response, the parameters, the requests or the list of responses. -/
theorem applyPrim_keeps (p : Prim) (s : State) :
    (applyPrim p s).sequencer = s.sequencer ∧ (applyPrim p s).response = s.response ∧
    (applyPrim p s).params = s.params ∧
    (applyPrim p s).session.memoryLength = s.session.memoryLength ∧
    (applyPrim p s).bench.requests = s.bench.requests ∧ (applyPrim p s).bench.responses = s.bench.responses := by
  cases p <;> simp [applyPrim]

theorem applyAll_keeps (ps : List Prim) (s : State) :
    (applyAll ps s).sequencer = s.sequencer ∧ (applyAll ps s).response = s.response ∧
    (applyAll ps s).params = s.params ∧
    (applyAll ps s).session.memoryLength = s.session.memoryLength ∧
    (applyAll ps s).bench.requests = s.bench.requests ∧ (applyAll ps s).bench.responses = s.bench.responses := by
  induction ps generalizing s with
  | nil => simp
  | cons p ps ih =>
    have h := applyPrim_keeps p s
    have h' := ih (applyPrim p s)
    simp_all

/-- A statement that writes a Session field; the others write none. -/
def writesSession : Prim → Bool
  | .setHasPower _ => true
  | .setInProgrammingMode _ => true
  | .resetLocation => true
  | .advanceLocation => true
  | _ => false

theorem applyPrim_session (p : Prim) (s : State) (h : writesSession p = false) :
    (applyPrim p s).session = s.session := by
  cases p <;> simp_all [applyPrim, writesSession]

theorem applyAll_session (ps : List Prim) (s : State) (h : ∀ p ∈ ps, writesSession p = false) :
    (applyAll ps s).session = s.session := by
  induction ps generalizing s with
  | nil => rfl
  | cons p ps ih =>
    rw [applyAll_cons, ih _ (fun q hq => h q (by simp [hq])), applyPrim_session p s (h p (by simp))]

/-! ### Pulses -/

/-- One output pulse: `SR[0]` on the data line, `SR` shifted, `BITCNT` counted (41 R141). -/
theorem applyAll_outPulse (s : State) :
    applyAll outPulse s = { s with
      lines := { s.lines with outCLK := false, outDAT := presentedLevel s.datapath.sr }
      datapath := { s.datapath with
        sr := shiftOne s.datapath.sr, bitcnt := s.datapath.bitcnt - 1#5, dlycnt := 0#15 }
      bench.trace := s.bench.trace ++ P (presentedLevel s.datapath.sr) } := by
  simp [applyAll, outPulse, applyPrim, TT, primWr, emit, setOut, elapseDelay, loadDelay, P]

/-- One input pulse: the next level joins `ACC` at bit 15, `BITCNT` is counted (41 R143). -/
theorem applyAll_inPulse (s : State) :
    applyAll inPulse s = { s with
      lines := { s.lines with outCLK := false }
      datapath := { s.datapath with
        acc := insertSample s.datapath.acc (nextLevel s), bitcnt := s.datapath.bitcnt - 1#5, dlycnt := 0#15 }
      bench := { s.bench with
        trace := s.bench.trace ++ Q (nextLevel s), datIn := s.bench.datIn.tail,
        samples := s.bench.samples + 1 } } := by
  simp [applyAll, inPulse, applyPrim, TT, primWr, emit, setOut, elapseDelay, loadDelay, sampleDat, consumeLevel,
    nextLevel, Q]

theorem pulsesOut_append (a b : List Level) : pulsesOut (a ++ b) = pulsesOut a ++ pulsesOut b := by
  simp [pulsesOut]

theorem pulsesIn_append (a b : List Level) : pulsesIn (a ++ b) = pulsesIn a ++ pulsesIn b := by
  simp [pulsesIn]

theorem lsbFirst_succ (n : Nat) (v : Word) :
    lsbFirst (n + 1) v = presentedLevel v :: lsbFirst n (shiftOne v) := by
  have h : List.map v.getLsbD (List.map Nat.succ (List.range n)) = List.map (shiftOne v).getLsbD (List.range n) := by
    rw [List.map_map]
    apply List.map_congr_left
    intro k _
    simp [shiftOne, Nat.add_comm]
  simp only [lsbFirst, List.range_succ_eq_map, List.map_cons, h]
  rfl

/-- A run of `n + 1` output pulses, from any value of `SR`. -/
theorem applyAll_outPulses (n : Nat) (s : State) :
    applyAll (List.replicate (n + 1) outPulse).flatten s = { s with
      lines := { s.lines with outCLK := false, outDAT := s.datapath.sr.getLsbD n }
      datapath := { s.datapath with
        sr := s.datapath.sr >>> (n + 1), bitcnt := s.datapath.bitcnt - BitVec.ofNat 5 (n + 1), dlycnt := 0#15 }
      bench.trace := s.bench.trace ++ pulsesOut (lsbFirst (n + 1) s.datapath.sr) } := by
  induction n generalizing s with
  | zero =>
    simp only [Nat.zero_add, List.replicate_one, List.flatten_singleton, applyAll_outPulse, lsbFirst_succ]
    simp [pulsesOut, lsbFirst, presentedLevel, shiftOne]
  | succ n ih =>
    rw [List.replicate_succ, List.flatten_cons, applyAll_append, applyAll_outPulse, ih, lsbFirst_succ (n + 1)]
    have hb : ∀ b : BitVec 5, b - 1#5 - BitVec.ofNat 5 (n + 1) = b - BitVec.ofNat 5 (n + 1 + 1) := by
      intro b
      apply BitVec.eq_of_toNat_eq
      simp only [BitVec.toNat_sub, BitVec.toNat_ofNat]
      omega
    simp [pulsesOut, shiftOne, Nat.add_comm, hb, ← BitVec.shiftRight_add]

/-- `n` output pulses and the load before them: what `shiftOut` does when at least one bit is sent. -/
theorem applyAll_shiftOut_succ (v : Word) (n : Nat) (s : State) :
    applyAll (shiftOut v (n + 1)) s = { s with
      lines := { s.lines with outCLK := false, outDAT := v.getLsbD n }
      datapath := { s.datapath with sr := v >>> (n + 1), bitcnt := 0#5, dlycnt := 0#15 }
      bench.trace := s.bench.trace ++ pulsesOut (lsbFirst (n + 1) v) } := by
  simp only [shiftOut, applyAll_append, applyAll_outPulses]
  simp [applyPrim]

/-- The levels that `n` samples get: the listed ones, then the free ones. -/
def takeLevels : Nat → List Level → Nat → List Level
  | 0, _, _ => []
  | n + 1, [], k => Config.freeDatLevel k :: takeLevels n [] (k + 1)
  | n + 1, b :: rest, k => b :: takeLevels n rest (k + 1)

@[simp] theorem takeLevels_length (n : Nat) (l : List Level) (k : Nat) : (takeLevels n l k).length = n := by
  induction n generalizing l k with
  | zero => rfl
  | succ n ih => cases l <;> simp [takeLevels, ih]

theorem takeLevels_succ (n : Nat) (s : State) :
    takeLevels (n + 1) s.bench.datIn s.bench.samples =
      nextLevel s :: takeLevels n s.bench.datIn.tail (s.bench.samples + 1) := by
  unfold nextLevel
  cases s.bench.datIn <;> rfl

/-- A run of `n + 1` input pulses, from any value of `ACC`. -/
theorem applyAll_inPulses (n : Nat) (s : State) :
    applyAll (List.replicate (n + 1) inPulse).flatten s = { s with
      lines := { s.lines with outCLK := false }
      datapath := { s.datapath with
        acc := (takeLevels (n + 1) s.bench.datIn s.bench.samples).foldl insertSample s.datapath.acc
        bitcnt := s.datapath.bitcnt - BitVec.ofNat 5 (n + 1), dlycnt := 0#15 }
      bench := { s.bench with
        trace := s.bench.trace ++ pulsesIn (takeLevels (n + 1) s.bench.datIn s.bench.samples)
        datIn := s.bench.datIn.drop (n + 1), samples := s.bench.samples + (n + 1) } } := by
  induction n generalizing s with
  | zero =>
    simp only [Nat.zero_add, List.replicate_one, List.flatten_singleton, applyAll_inPulse, takeLevels_succ]
    simp [pulsesIn, takeLevels]
  | succ n ih =>
    rw [List.replicate_succ, List.flatten_cons, applyAll_append, applyAll_inPulse, ih, takeLevels_succ (n + 1)]
    have hb : ∀ b : BitVec 5, b - 1#5 - BitVec.ofNat 5 (n + 1) = b - BitVec.ofNat 5 (n + 1 + 1) := by
      intro b
      apply BitVec.eq_of_toNat_eq
      simp only [BitVec.toNat_sub, BitVec.toNat_ofNat]
      omega
    simp [pulsesIn, hb]
    omega

/-- What `shiftIn` does when at least one bit is received. -/
theorem applyAll_shiftIn_succ (n : Nat) (s : State) :
    applyAll (shiftIn (n + 1)) s = { s with
      lines := { s.lines with outCLK := false }
      datapath := { s.datapath with
        acc := (takeLevels (n + 1) s.bench.datIn s.bench.samples).foldl insertSample 0#16
        bitcnt := 0#5, dlycnt := 0#15 }
      bench := { s.bench with
        trace := s.bench.trace ++ pulsesIn (takeLevels (n + 1) s.bench.datIn s.bench.samples)
        datIn := s.bench.datIn.drop (n + 1), samples := s.bench.samples + (n + 1) } } := by
  simp only [shiftIn, applyAll_append, applyAll_inPulses]
  simp [applyPrim]

/-- The listed answers come first. -/
theorem takeLevels_append (l rest : List Level) (k : Nat) : takeLevels l.length (l ++ rest) k = l := by
  induction l generalizing k with
  | nil => rfl
  | cons b l ih => simp [takeLevels, ih]

theorem takeLevels_getElem? (n : Nat) (l : List Level) (c k : Nat) (b : Level) (hk : k < n) (h : l[k]? = some b) :
    (takeLevels n l c)[k]? = some b := by
  induction n generalizing l c k with
  | zero => omega
  | succ n ih =>
    cases l with
    | nil => simp at h
    | cons a l =>
      cases k with
      | zero => simpa [takeLevels] using h
      | succ k => simpa [takeLevels] using ih _ _ _ (by omega) (by simpa using h)

/-- A bit of `ACC` after a sample: the sample at bit 15, the others one place down (41 R143). -/
theorem getLsbD_insertSample (acc : Word) (b : Level) (k : Nat) (h : k < 16) :
    (insertSample acc b).getLsbD k = if k = 15 then b else acc.getLsbD (k + 1) := by
  have : k = 0 ∨ k = 1 ∨ k = 2 ∨ k = 3 ∨ k = 4 ∨ k = 5 ∨ k = 6 ∨ k = 7 ∨ k = 8 ∨ k = 9 ∨ k = 10 ∨ k = 11 ∨ k = 12 ∨
      k = 13 ∨ k = 14 ∨ k = 15 := by omega
  rcases this with rfl|rfl|rfl|rfl|rfl|rfl|rfl|rfl|rfl|rfl|rfl|rfl|rfl|rfl|rfl|rfl <;>
    simp [insertSample, Nat.add_comm]

/-- A bit of `ACC` after a list of samples: the samples left-justified in order of receipt, the old contents below
(41 R144, R145). -/
theorem getLsbD_foldl_insertSample (l : List Level) (acc : Word) (h : l.length ≤ 16) (k : Nat) (hk : k < 16) :
    (l.foldl insertSample acc).getLsbD k =
      if k < 16 - l.length then acc.getLsbD (k + l.length) else l.getD (k - (16 - l.length)) false := by
  induction l generalizing acc with
  | nil => simp; omega
  | cons b l ih =>
    rw [List.length_cons] at h
    rw [List.foldl_cons, ih _ (by omega), List.length_cons]
    by_cases h1 : k < 16 - l.length
    · rw [if_pos h1, getLsbD_insertSample _ _ _ (by omega)]
      by_cases h2 : k + l.length = 15
      · rw [if_pos h2, if_neg (by omega), show k - (16 - (l.length + 1)) = 0 by omega]
        rfl
      · rw [if_neg h2, if_pos (by omega)]
        congr 1
    · rw [if_neg h1, if_neg (by omega), show k - (16 - (l.length + 1)) = (k - (16 - l.length)) + 1 by omega]
      rfl

/-! ### The command encoder -/

/-- What `issueCommand` does (42 R160, R168). -/
theorem applyAll_issueCommand (c : CmdSel) (s : State) :
    applyAll (issueCommand c) s = { s with
      lines := { s.lines with outCLK := false, outDAT := false }
      datapath := { s.datapath with sr := 0#16, bitcnt := 0#5, cmdsel := c, dlycnt := 0#15 }
      bench.trace := s.bench.trace ++ CMD c } := by
  have h1 : (opcodeWord c).getLsbD 5 = false := by cases c <;> rfl
  have h2 : opcodeWord c >>> 6 = 0#16 := by cases c <;> rfl
  have h3 : lsbFirst 6 (opcodeWord c) = commandBits c := by cases c <;> rfl
  rw [issueCommand, applyAll_cons, applyAll_shiftOut_succ, h1, h2, h3]
  rfl

/-! ### The end of an operation -/

/-- A reply is the end of an operation that performed nothing more. -/
theorem reply_eq_concluded (r : Reply) (s : State) :
    reply r s = concluded [] (replyOk r) (replyData r s.datapath.acc) s := by
  simp [reply, concluded, answered]

theorem concluded_session (ev : List Event) (ok : Bool) (d : Word) (s : State) :
    (concluded ev ok d s).session = s.session := rfl

theorem concluded_lines (ev : List Event) (ok : Bool) (d : Word) (s : State) :
    (concluded ev ok d s).lines = s.lines := rfl

theorem concluded_trace (ev : List Event) (ok : Bool) (d : Word) (s : State) :
    (concluded ev ok d s).bench.trace = s.bench.trace ++ ev := rfl

end Sys2Proof.Machine
end

