-- ==== Sys2Proof/Laws/PerInstr.lean ====
section
/-! SUPPORT. Statements for all instructions, one lemma a constructor. Family `AssignedWord`: what the encoder writes is a
well-formed word on the channel and of the operation code that the instruction's row names (30_encoding R102, R161). -/

namespace Sys2Proof.Laws.AssignedWord

/-- The `op` field of a request, or the opcode of a wire command. -/
def codeOf : Raw → Nat
  | .request r => (requestOp r).toNat
  | .command c => c.toNat

/-- The word is well-formed and carries the code of the row: bits 19:16 of a request row's pattern, the whole pattern of a
command row. -/
def Statement (i : Instr) : Prop :=
  codeOf (encode i) = (if (tableRow i).width = 20 then (tableRow i).pattern / 65536 else (tableRow i).pattern)

theorem setPowerTrue (ig : BitVec 15) : Statement (.setPowerTrue ig) := by simp [Statement, codeOf, encode, tableRow, request_assoc]
theorem setPowerFalse (ig : BitVec 15) : Statement (.setPowerFalse ig) := by simp [Statement, codeOf, encode, tableRow, request_assoc]
theorem setProgrammingModeTrue (ig : BitVec 15) : Statement (.setProgrammingModeTrue ig) := by
  simp [Statement, codeOf, encode, tableRow, request_assoc]
theorem setProgrammingModeFalse (ig : BitVec 15) : Statement (.setProgrammingModeFalse ig) := by
  simp [Statement, codeOf, encode, tableRow, request_assoc]
theorem incAddress (ig : BitVec 16) : Statement (.incAddress ig) := by simp [Statement, codeOf, encode, tableRow]
theorem readWord (f : Bool) (ig : BitVec 15) : Statement (.readWord f ig) := by
  simp [Statement, codeOf, encode, tableRow, request_assoc]
theorem writeWord (w : Word) : Statement (.writeWord w) := by simp [Statement, codeOf, encode, tableRow]
theorem burn (ig : BitVec 16) : Statement (.burn ig) := by simp [Statement, codeOf, encode, tableRow]
theorem erase (ig : BitVec 16) : Statement (.erase ig) := by simp [Statement, codeOf, encode, tableRow]
theorem loadDataPm : Statement .loadDataPm := rfl
theorem readDataPm : Statement .readDataPm := rfl
theorem incAddr : Statement .incAddr := rfl
theorem beginProg : Statement .beginProg := rfl
theorem bulkErase : Statement .bulkErase := rfl
theorem endProg : Statement .endProg := rfl

end Sys2Proof.Laws.AssignedWord
end

