-- ==== Sys2Proof/Laws/Procedures.lean ====
section
/-! SUPPORT. What the internal procedures of the power/mode state machine do, from any state (43_power_mode R183, R184,
R186, R187). -/

namespace Sys2Proof.Machine

open Sys2Proof.Safety

/-- `enterPM` from any state (R186). -/
theorem applyAll_enterPM (s : State) :
    applyAll enterPM s = { s with
      session := { s.session with location := -1, hasPower := true, inProgrammingMode := true }
      lines := { outVDD := true, outVPP := true, dirCLK := .out, outCLK := false, dirDAT := .out, outDAT := false }
      datapath.dlycnt := 0#15
      bench.trace := s.bench.trace ++ E } := by
  simp [applyAll, enterPM, applyPrim, TT, primWr, primDir, emit, setOut, setDir, elapseDelay, loadDelay, resetLocation,
    setHasPower, setInProgrammingMode, E]

/-- `exitPM` from any state (R187). -/
theorem applyAll_exitPM (s : State) :
    applyAll exitPM s = { s with
      session := { s.session with hasPower := false, inProgrammingMode := false }
      lines := Lines.reset
      datapath.dlycnt := 0#15
      bench.trace := s.bench.trace ++ X } := by
  simp [applyAll, exitPM, applyPrim, TT, primWr, primDir, emit, setOut, setDir, elapseDelay, loadDelay,
    setHasPower, setInProgrammingMode, X, Lines.reset]

/-- Powering up (R183). -/
theorem applyAll_powerUp (s : State) :
    applyAll powerUp s = { s with
      session.hasPower := true
      lines.outVDD := true
      datapath.dlycnt := 0#15
      bench.trace := s.bench.trace ++ U } := by
  simp [applyAll, powerUp, applyPrim, TT, primWr, emit, setOut, elapseDelay, loadDelay, setHasPower, U]

/-- Powering down (R184). -/
theorem applyAll_powerDown (s : State) :
    applyAll powerDown s = { s with
      session.hasPower := false
      lines.outVDD := false
      datapath.dlycnt := 0#15
      bench.trace := s.bench.trace ++ D } := by
  simp [applyAll, powerDown, applyPrim, TT, primWr, emit, setOut, elapseDelay, loadDelay, setHasPower, D]

end Sys2Proof.Machine
end

