-- ==== Sys2Proof/Laws/Traces.lean ====
section
/-! SUPPORT. Traces taken apart: lengths, minimum durations, lines and wire bits of a trace put together from parts. -/

namespace Sys2Proof.Safety

open Sys2Proof.Machine

@[simp] theorem lsbFirst_length (n : Nat) (v : Word) : (lsbFirst n v).length = n := by
  simp [lsbFirst]

theorem pulsesOut_length (bits : List Level) : (pulsesOut bits).length = 6 * bits.length := by
  induction bits with
  | nil => rfl
  | cons b bits ih => simp [pulsesOut, P] at *; omega

theorem pulsesIn_length (levels : List Level) : (pulsesIn levels).length = 5 * levels.length := by
  induction levels with
  | nil => rfl
  | cons b levels ih => simp [pulsesIn, Q] at *; omega

theorem minDuration_append (a b : List Event) : minDuration (a ++ b) = minDuration a + minDuration b := by
  induction a with
  | nil => simp [minDuration]
  | cons e a ih => cases e <;> simp [minDuration, ih, Nat.add_assoc]

theorem minDuration_pulsesOut (bits : List Level) : minDuration (pulsesOut bits) = 3 * bits.length := by
  induction bits with
  | nil => rfl
  | cons b bits ih => simp [pulsesOut, P, minDuration] at *; omega

theorem minDuration_pulsesIn (levels : List Level) : minDuration (pulsesIn levels) = 10 * levels.length := by
  induction levels with
  | nil => rfl
  | cons b levels ih => simp [pulsesIn, Q, minDuration] at *; omega

theorem linesAfter_append (ln : Lines) (a b : List Event) :
    linesAfter ln (a ++ b) = linesAfter (linesAfter ln a) b := by
  simp [linesAfter]

/-- Later events add to the waits after a `WR(VDD, ·)`, or leave them (R192). -/
theorem settleTime_le_append (a b : List Event) : settleTime a ≤ settleTime (a ++ b) := by
  induction a with
  | nil => exact Nat.zero_le _
  | cons e a ih =>
    cases e with
    | dir l d => cases l <;> cases d <;> simp [settleTime, ih]
    | wr l v => cases l <;> simp [settleTime, ih]
    | rd v => simpa [settleTime] using ih
    | dly n => simpa [settleTime] using ih

/-- With the clock low, a run of output pulses decodes to its bits, and decoding goes on with the clock low (R92). -/
theorem wireBits_pulsesOut (bits : List Level) (rest : List Event) :
    wireBits false (pulsesOut bits ++ rest) = bits.map .sent ++ wireBits false rest := by
  induction bits with
  | nil => rfl
  | cons b bits ih => simpa [pulsesOut, P, wireBits] using ih

/-- With the clock low, a run of input pulses decodes to its levels (R92). -/
theorem wireBits_pulsesIn (levels : List Level) (rest : List Event) :
    wireBits false (pulsesIn levels ++ rest) = levels.map .received ++ wireBits false rest := by
  induction levels with
  | nil => rfl
  | cons b levels ih => simpa [pulsesIn, Q, wireBits] using ih

end Sys2Proof.Safety
end

