-- ==== Sys2Proof/Tests/Slice0.lean ====
section
/-! SUPPORT. The model's own tests: words written out from the spec's encodings, ill-formed terms refused, one step of each
instruction against the vectors of spec/95_test_vectors.md, and a witness for the hypotheses of each statement. -/

namespace Sys2Proof.Tests

open Sys2Proof.Machine Sys2Proof.Safety

/-! ### Helpers -/

/-- A boundary in a mode, with a memory length, a `location` and the levels the environment answers. -/
def at_ (m : Mode) (ml : Nat) (loc : Int) (levels : List Level) : State :=
  let pm := m == .programmingMode
  let session : Session :=
    { hasPower := m != .unpowered, inProgrammingMode := pm, location := loc, memoryLength := ml }
  { State.initial ml Params.default with
    session := session, lines := boundaryLines session, bench.datIn := levels }

def stateOf : Host.Outcome State Fault Refusal → State
  | .next s => s
  | .fault _ => State.reset
  | .refused _ => State.reset

/-- The state after one instruction. -/
def after (i : Instr) (s : State) : State := stateOf (exec i s)

/-- A host that presents one word. -/
def offering (r : BitVec 20) (s : State) : State := { s with bench.requests := [r] }

def pm : State := at_ .programmingMode 8192 (-1) []
def powered : State := at_ .powered 8192 3 []
def unpowered : State := at_ .unpowered 8192 3 []

/-- Levels written as 0 and 1. -/
def levels (ds : List Nat) : List Level := ds.map (· == 1)

/-! ### Well-formedness: one ill-formed term for each check -/

theorem test_reserved_op_low_is_ill_formed : (Raw.request 0x00000#20).wellFormed = false := by decide
theorem test_reserved_op_high_is_ill_formed : (Raw.request 0x80000#20).wellFormed = false := by decide
theorem test_unassigned_command_is_ill_formed : (Raw.command 0x07#6).wellFormed = false := by decide
theorem test_memory_length_zero_is_refused : State.construct 0 Params.default = none := by decide
theorem test_memory_length_too_large_is_refused : State.construct 32769 Params.default = none := by decide
theorem test_memory_length_needs_a_wider_register :
    State.construct 32769 { Params.default with locW := 17 } ≠ none ∧
    State.construct 5 { Params.default with locW := 3 } = none ∧
    State.construct 1 { Params.default with locW := 0 } = none := by decide
theorem test_assigned_words_are_well_formed :
    (Raw.request 0x10000#20).wellFormed = true ∧ (Raw.request 0x7FFFF#20).wellFormed = true ∧
    (Raw.command 0b001110#6).wellFormed = true := by decide

/-! ### Decoding: words written out from R91, R100, R102, R103, R161 -/

theorem test_decode_setPowerTrue : decodeRequest 0b0001_000000000000000_1#20 = .ok (.setPowerTrue 0#15) := by decide
theorem test_decode_setPowerFalse : decodeRequest 0b0001_111111111111111_0#20 = .ok (.setPowerFalse 0x7FFF#15) := by decide
theorem test_decode_setProgrammingModeTrue :
    decodeRequest 0b0010_000000000000001_1#20 = .ok (.setProgrammingModeTrue 1#15) := by decide
theorem test_decode_setProgrammingModeFalse :
    decodeRequest 0b0010_000000000000000_0#20 = .ok (.setProgrammingModeFalse 0#15) := by decide
theorem test_decode_incAddress : decodeRequest 0b0011_1010101111001101#20 = .ok (.incAddress 0xABCD#16) := by decide
theorem test_decode_readWord_true : decodeRequest 0b0100_000000000000000_1#20 = .ok (.readWord true 0#15) := by decide
theorem test_decode_readWord_false : decodeRequest 0b0100_111111111111111_0#20 = .ok (.readWord false 0x7FFF#15) := by
  decide
theorem test_decode_writeWord : decodeRequest 0b0101_0010101010101010#20 = .ok (.writeWord 0x2AAA#16) := by decide
theorem test_decode_burn : decodeRequest 0b0110_0000000000000000#20 = .ok (.burn 0#16) := by decide
theorem test_decode_erase : decodeRequest 0b0111_0000000000000001#20 = .ok (.erase 1#16) := by decide
theorem test_decode_reserved :
    decodeRequest 0xF1234#20 = .error (.reservedRequest 0xF#4) ∧ decodeRequest 0x00000#20 = .error (.reservedRequest 0#4) := by
  decide
theorem test_decode_loadDataPm : decodeCommand 0b000010#6 = .ok .loadDataPm := by decide
theorem test_decode_readDataPm : decodeCommand 0b000100#6 = .ok .readDataPm := by decide
theorem test_decode_incAddr : decodeCommand 0b000110#6 = .ok .incAddr := by decide
theorem test_decode_beginProg : decodeCommand 0b001000#6 = .ok .beginProg := by decide
theorem test_decode_bulkErase : decodeCommand 0b001001#6 = .ok .bulkErase := by decide
theorem test_decode_endProg : decodeCommand 0b001110#6 = .ok .endProg := by decide
theorem test_decode_unassigned : decodeCommand 0x3F#6 = .error (.unassignedCommand 0x3F#6) := by decide
theorem test_decodeTableWord :
    decodeTableWord 24 0x10001 = some (.setPowerTrue 0#15) ∧ decodeTableWord 8 0x0E = some .endProg ∧
    decodeTableWord 24 0x80000 = none ∧ decodeTableWord 8 0x42 = none := by decide
theorem test_encode_writeWord : encode (.writeWord 0x1234#16) = .request 0x51234#20 := by decide

/-! ### The vectors of 95_test_vectors.md -/

/-- V1. -/
theorem test_shiftOut_V1 : (applyAll (shiftOut 0x09#16 6) pm).bench.trace =
    P true ++ P false ++ P false ++ P true ++ P false ++ P false := by decide

/-- V3, row 2 and row 7. -/
theorem test_shiftIn_V3 :
    (applyAll (shiftIn 16) (at_ .programmingMode 1 0 (levels [1,0,0,0,0,0,0,0,0,0,0,0,0,0,0,0]))).datapath.acc = 0x0001#16 ∧
    (applyAll (shiftIn 16) (at_ .programmingMode 1 0 (levels [1,0,1,0,1,0,1,0,1,0,1,0,1,0,1,0]))).datapath.acc = 0x5555#16 := by
  decide

/-- V4: the wrap, the sentinel, and `memoryLength = 1`. -/
theorem test_incAddress_V4 :
    (after (.incAddress 0#16) (at_ .programmingMode 8192 8191 [])).session.location = 0 ∧
    (after (.incAddress 0#16) (at_ .programmingMode 8192 8190 [])).session.location = 8191 ∧
    (after (.incAddress 0#16) pm).session.location = 0 ∧
    (after (.incAddress 0#16) (at_ .programmingMode 1 0 [])).session.location = 0 := by decide

/-- V4, the top of the register's range: `memoryLength = 2^15` with `LOC_W` = 16, and `2^2` with `LOC_W` = 3 (R215). -/
theorem test_incAddress_top :
    (after (.incAddress 0#16) (at_ .programmingMode 32768 32767 [])).session.location = 0 ∧
    (after (.incAddress 0#16) { at_ .programmingMode 4 3 [] with params.locW := 3 }).session.location = 0 := by decide

/-- A register of 3 bits holds -4 to 3. -/
theorem test_narrow : narrow 3 3 = 3 ∧ narrow 3 4 = -4 ∧ narrow 3 (-1) = -1 ∧ narrow 16 32768 = -32768 := by decide

/-- V5, row 6. -/
theorem test_readWord_false_V5 :
    (after (.readWord false 0#15) (at_ .programmingMode 8192 0 (levels [0,0,0,1,0,1,1,0,0,0,1,0,0,1,0,0]))).response =
      answered true 0x1234#16 := by decide

/-- V5, rows 5 and 2. -/
theorem test_readWord_true_V5 :
    (after (.readWord true 0#15) (at_ .programmingMode 8192 0 (levels [0,0,1,0,1,1,0,0,0,1,0,0,1,0,0,0]))).response =
      answered true 0x1234#16 ∧
    (after (.readWord true 0#15) (at_ .programmingMode 8192 0 (levels [1,1,1,1,1,1,1,1,1,1,1,1,1,1,1,1]))).response =
      answered true 0xFFFF#16 := by decide

/-- V6. -/
theorem test_writeWord_V6 : (after (.writeWord 0x1234#16) pm).bench.trace =
    P false ++ P true ++ P false ++ P false ++ P false ++ P false ++ [.dly 5] ++
    pulsesOut (levels [0,0,0,1,0,1,1,0,0,0,1,0,0,1,0,0]) ++ [.wr .dat false] := by decide +kernel

/-- The framing table of V6. -/
theorem test_frame_V6 : frame 0x0001#16 = 0x0002#16 ∧ frame 0x4000#16 = 0x0000#16 ∧ frame 0xFFFF#16 = 0x7FFE#16 ∧
    frame 0x1555#16 = 0x2AAA#16 := by decide

/-- V7, second call: no event, `location` kept. -/
theorem test_setProgrammingModeTrue_V7 :
    (after (.setProgrammingModeTrue 0#15) (at_ .programmingMode 8192 2 [])).bench.trace = [] ∧
    (after (.setProgrammingModeTrue 0#15) (at_ .programmingMode 8192 2 [])).session.location = 2 := by decide

/-- V8. -/
theorem test_setProgrammingModeTrue_V8 : (after (.setProgrammingModeTrue 0#15) powered).bench.trace =
    [.wr .vdd false, .dly 20000, .dir .clk .out, .dir .dat .out, .wr .clk false, .wr .dat false, .dly 1, .wr .vpp true,
     .dly 10, .wr .vdd true, .dly 10] ∧
    (after (.setProgrammingModeTrue 0#15) powered).session.location = -1 := by decide

/-- V9, third case. -/
theorem test_setPowerTrue_V9 : (after (.setPowerTrue 0#15) pm).bench.trace =
    [.dir .dat .out, .wr .dat false, .wr .clk false, .wr .vdd false, .dly 2, .wr .vpp false, .dly 20000, .dir .clk .inp,
     .dir .dat .inp, .wr .vdd true, .dly 20000] ∧ modeOf (after (.setPowerTrue 0#15) pm).session = some .powered := by decide

/-- V10. -/
theorem test_setPowerFalse_V10 : (after (.setPowerFalse 0#15) powered).bench.trace = [.wr .vdd false, .dly 20000] ∧
    (after (.setPowerFalse 0#15) unpowered).bench.trace = [] := by decide

/-- V11, row `P`, for both values of the parameter. -/
theorem test_setProgrammingModeFalse_V11 :
    modeOf (after (.setProgrammingModeFalse 0#15) powered).session = some .unpowered ∧
    (after (.setProgrammingModeFalse 0#15) powered).bench.trace.length = 9 ∧
    modeOf (after (.setProgrammingModeFalse 0#15) { powered with params.exitPmGuarded := true }).session = some .powered := by decide

/-- V12. -/
theorem test_burn_V12 : (after (.burn 0#16) pm).bench.trace =
    P false ++ P false ++ P false ++ P true ++ P false ++ P false ++ [.dly 10000] ++
    P false ++ P true ++ P true ++ P true ++ P false ++ P false ++ [.dly 1000] := by decide

/-- V13. -/
theorem test_erase_V13 : (after (.erase 0#16) pm).bench.trace =
    P true ++ P false ++ P false ++ P true ++ P false ++ P false ++ [.dly 20000] := by decide

/-- V2: the trace of `INC_ADDR`. -/
theorem test_wire_incAddr_V2 : (after .incAddr pm).bench.trace =
    P false ++ P true ++ P true ++ P false ++ P false ++ P false := by decide

/-- V15, one row: everything but the response as before. -/
theorem test_writeWord_fails_V15 : exec (.writeWord 0x1234#16) powered =
    .next { powered with response := ⟨false, 0xFFFF#16, true⟩, bench.responses := [(false, 0xFFFF#16)] } := by rfl

/-- V16. -/
theorem test_reserved_request_V16 : step (offering 0xF1234#20 pm) =
    .next { pm with response := ⟨false, 0xFFFF#16, true⟩, bench.responses := [(false, 0xFFFF#16)] } := by rfl

/-- V17: `0x1FFFF` is `setPower(true)`. -/
theorem test_ignored_bits_V17 : modeOf (stateOf (step (offering 0x1FFFF#20 unpowered))).session = some .powered := by decide

/-- V14, row 4: the answers of `LoopTarget` after `writeWord(0x2AAA)`. -/
theorem test_loopTarget_V14 : (LoopTarget.after (after (.writeWord 0x2AAA#16) pm).bench.trace).answers =
    levels [0,0,1,0,1,0,1,0,1,0,1,0,1,0,1,0] := by decide +kernel

/-- Part 3: on the events of a read after a write, `LoopTarget` answers every sample, and no other answers are its. -/
theorem test_loopTarget_answersAll :
    let t := LoopTarget.after (after (.writeWord 0x2AAA#16) pm).bench.trace
    t.answersAll (CMD .readDataPm ++ [.dir .dat .inp, .dly 5] ++ pulsesIn t.answers) = true ∧
    t.answersAll (CMD .readDataPm ++ [.dir .dat .inp, .dly 5] ++ pulsesIn (t.answers.map (!·))) = false ∧
    t.answersAll (CMD .incAddr ++ [.dir .dat .inp, .dly 5] ++ pulsesIn t.answers) = false := by decide +kernel

/-- R192 (d): the waits of `X`, `U`, `D`; a shortened one is refused. -/
theorem test_settleTime : settleTime (X.drop 4 ++ U) = 20002 ∧ settleTime (U.drop 1) = 20000 ∧
    settleTime (D.drop 1 ++ E) = 20000 ∧ settleOk Lines.reset (.wr .vdd true) [.dly 19999, .wr .vdd false, .dly 20000] = false := by
  decide

/-- R30: the host reads `location` in ProgrammingMode only. -/
theorem test_observed_location : observedLocation pm = some (-1) ∧ observedLocation powered = none := by decide

/-- A table word runs as the first instruction after reset. -/
theorem test_first_instruction_after_reset :
    stateOf (step (State.reset.withFetchWord 24 0x20001)) = after (.setProgrammingModeTrue 0#15) (accept State.reset) ∧
    (stateOf (step (State.reset.withFetchWord 8 0x09))).bench.trace = CMD .bulkErase := by decide

/-! ### Witnesses: for each statement with hypotheses, states and operands that meet them together -/

/-- An engine in ProgrammingMode with a step list still to do. -/
def busyWith (items : List Item) : State := beginOp items pm

/-- A cycle with a tick, no request, `DAT_I` low. -/
def tick : PortsIn := { rst := false, reqValid := false, reqOp := 0#4, reqArg := 0#16, datI := false, tickUs := true }

/-- A cycle in which the host presents a request. -/
def presenting (op : BitVec 4) (arg : Word) : PortsIn := { tick with reqValid := true, reqOp := op, reqArg := arg }

/-- The reset state after entry into ProgrammingMode. -/
def entered : State := after (.setProgrammingModeTrue 0#15) State.reset

theorem witness_EncodeOfDecodeRestoresTheWord :
    decode (.request 0x1FFFF#20) = .ok (.setPowerTrue 0x7FFF#15) ∧ decode (.command 0x0E#6) = .ok .endProg := by decide

theorem witness_DecodedWordSelectsItsTableRowAlone :
    decode (.request 0x7FFFF#20) = .ok (.erase 0xFFFF#16) ∧ decode (.command 0x02#6) = .ok .loadDataPm ∧
    (tableRow (.erase 0#16)).selectedBy (.request 0x7FFFF#20) = true := by decide

theorem witness_IgnoredRequestBitsHaveNoEffect :
    pm.sequencer.busy = false ∧ requestOp 0x4FFFE#20 = requestOp 0x40000#20 ∧
    (requestOp 0x4FFFE#20 = 4#4 → (0x4FFFE#20).getLsbD 0 = (0x40000#20).getLsbD 0) ∧
    requestOp 0x3ABCD#20 = requestOp 0x30000#20 ∧ requestOp 0x52AAA#20 = 5#4 := by decide

theorem witness_StepRunsTheDecodedRequest :
    (offering 0x51234#20 pm).sequencer.busy = false ∧ (offering 0x51234#20 pm).bench.requests = 0x51234#20 :: [] ∧
    decode (.request 0x51234#20) = .ok (.writeWord 0x1234#16) := by decide

theorem witness_BusyStepRunsTheCalledWireCommand :
    (busyWith [.command .incAddr, .ret .done]).sequencer.busy = true ∧
    (busyWith [.command .incAddr, .ret .done]).sequencer.seq = .command .incAddr :: [.ret .done] ∧
    decode (.command (opcodeOf .incAddr)) = .ok .incAddr := by decide

theorem witness_StepRunsThePlacedTableWord :
    decodeTableWord 24 0x51234 = some (.writeWord 0x1234#16) ∧ decodeTableWord 8 0x02 = some .loadDataPm := by decide

theorem witness_ReservedRequestIsAnsweredWithFailure :
    (offering 0x80000#20 pm).sequencer.busy = false ∧ (offering 0x80000#20 pm).bench.requests = 0x80000#20 :: [] ∧
    requestAssigned 0x80000#20 = false ∧ requestAssigned 0x0FFFF#20 = false ∧ requestAssigned 0xFFFFF#20 = false ∧
    requestAssigned 0x10000#20 = true ∧ requestAssigned 0x7FFFF#20 = true := by decide

theorem witness_IdleEngineWaitsForARequest : pm.sequencer.busy = false ∧ pm.bench.requests = [] := by decide

theorem witness_InvalidStateCallChangesNothing :
    isGuarded (.burn 0#16) = true ∧ powered.session.inProgrammingMode = false ∧
    unpowered.session.inProgrammingMode = false ∧ isTransition (.setPowerTrue 0#15) = true := by decide

/-- The three starting states of the transitions, clause by clause. -/
theorem witness_SetPower_and_SetProgrammingMode :
    unpowered.session.inProgrammingMode = false ∧ unpowered.session.hasPower = false ∧
    powered.session.inProgrammingMode = false ∧ powered.session.hasPower = true ∧
    pm.session.inProgrammingMode = true ∧ powered.params.exitPmGuarded = false ∧
    { powered with params.exitPmGuarded := true }.params.exitPmGuarded = true := by decide

theorem witness_TransitionTableHolds :
    AtMode .unpowered unpowered ∧ AtMode .powered powered ∧ AtMode .programmingMode pm ∧
    pm.params.exitPmGuarded = false ∧ isGuarded (.erase 0#16) = true := by decide

theorem witness_TransitionTableHolds_cells :
    transition .programmingMode (.setPowerTrue 0#15) = some (.powered, X ++ U, 40002) ∧
    transition .unpowered (.setProgrammingModeFalse 0#15) = some (.unpowered, X, 20002) ∧
    transition .powered (.setProgrammingModeTrue 0#15) = some (.programmingMode, D ++ E, 20021) := by decide

theorem witness_OnlyTransitionsWriteTheFlags :
    exec (.burn 0#16) pm = .next (after (.burn 0#16) pm) ∧ isTransition (.burn 0#16) = false := ⟨rfl, rfl⟩

theorem witness_FlagsAreWrittenAfterTheWaits :
    powerDown ∈ [enterPM, exitPM, powerUp, powerDown] ∧ powerDown.length = 3 ∧ enterPM.length = 12 := by decide

/-- At the sentinel, at the wrap, at the top of the register's range, with a memory of one word, and with another width. -/
theorem witness_IncAddressAdvancesLocation :
    powered.session.inProgrammingMode = false ∧ pm.session.inProgrammingMode = true ∧ sessionOk 16 pm.session ∧
    pm.params.locW = 16 ∧
    sessionOk 16 (at_ .programmingMode 8192 8191 []).session ∧
    sessionOk 16 (at_ .programmingMode 32768 32767 []).session ∧
    sessionOk 1 (at_ .programmingMode 1 0 []).session := by decide

theorem witness_IncrementerEqualsComparatorForm :
    memoryLengthOk 16 32768 = true ∧ (-1 : Int) ≤ 32767 ∧ (32767 : Int) < (32768 : Nat) ∧
    memoryLengthOk 1 1 = true ∧ (-1 : Int) ≤ -1 ∧ (-1 : Int) < (1 : Nat) ∧ memoryLengthOk 24 65536 = true := by decide

theorem witness_IncAddressClosedForm :
    pm.session.inProgrammingMode = true ∧ memoryLengthOk pm.params.locW pm.session.memoryLength = true ∧
    pm.session.location = -1 := by decide

theorem witness_OnlyEntryAndIncAddressWriteLocation :
    exec (.setProgrammingModeTrue 0#15) powered = .next (after (.setProgrammingModeTrue 0#15) powered) ∧
    exec (.incAddress 0#16) pm = .next (after (.incAddress 0#16) pm) := ⟨rfl, rfl⟩

/-- `readWord`, `writeWord`, `burn`, `erase`, both clauses of each; the recovered wire bits; the two forms of the read;
the round trip of R226. -/
theorem witness_ProgrammingOperations :
    powered.session.inProgrammingMode = false ∧ unpowered.session.inProgrammingMode = false ∧
    pm.session.inProgrammingMode = true := by decide

/-- The clause on the listed answers, at the ends of its range: one answer listed, and sixteen. -/
theorem witness_ReadWordReturnsTheSampledLevels :
    (at_ .programmingMode 1 0 (levels [1])).session.inProgrammingMode = true ∧
    (at_ .programmingMode 1 0 (levels [1])).bench.datIn[0]? = some true ∧
    (at_ .programmingMode 1 0 (levels [0,0,1,0,1,1,0,0,0,1,0,0,1,0,0,1])).bench.datIn[0]? = some false ∧
    (at_ .programmingMode 1 0 (levels [0,0,1,0,1,1,0,0,0,1,0,0,1,0,0,1])).bench.datIn[15]? = some true := by decide

theorem witness_ProgrammingOperationsRestoreTheLines :
    AtMode .programmingMode pm ∧ isGuarded (.readWord true 0#15) = true ∧ isGuarded (.writeWord 0#16) = true := by decide

theorem witness_LoopTargetRoundTrip :
    pm.session.inProgrammingMode = true ∧ (LoopTarget.after pm.bench.trace).phase = .command ∧
    (LoopTarget.after pm.bench.trace).bits = [] ∧ (LoopTarget.after pm.bench.trace).clk = false ∧
    entered.session.inProgrammingMode = true ∧ (LoopTarget.after entered.bench.trace).phase = .command ∧
    (LoopTarget.after entered.bench.trace).bits = [] ∧ (LoopTarget.after entered.bench.trace).clk = false := by decide

/-- The ends of the range of `n`. -/
theorem witness_ShiftOut_and_ShiftIn :
    (0 : Nat) ≤ 16 ∧ (16 : Nat) ≤ 16 ∧
    (levels [1,0,1]).length ≤ 16 ∧
    (at_ .programmingMode 1 0 (levels [1,0,1,0])).bench.datIn = levels [1,0,1] ++ levels [0] := by decide

theorem witness_ConstructionGivesTheResetState :
    memoryLengthOk 16 0 = false ∧ memoryLengthOk 16 32769 = false ∧ memoryLengthOk 0 1 = false ∧
    memoryLengthOk 16 1 = true ∧ memoryLengthOk 16 32768 = true ∧ memoryLengthOk 1 1 = true := by decide

theorem witness_StepKeepsTheBoundaryInvariant :
    Boundary (offering 0x60000#20 pm) ∧ Boundary (offering 0xF0000#20 unpowered) := by decide

theorem witness_StepKeepsTheBoundaryInvariant_steps :
    step (offering 0x60000#20 pm) = .next (stateOf (step (offering 0x60000#20 pm))) := rfl

theorem witness_StepKeepsTheRailOrder :
    Boundary (offering 0x20000#20 entered) ∧ TraceOk (offering 0x20000#20 entered) := by decide

theorem witness_StepKeepsTheRailOrder_steps :
    step (offering 0x20000#20 entered) = .next (stateOf (step (offering 0x20000#20 entered))) := rfl

theorem witness_ResetStepsOnlyFromIdleUnpowered :
    { tick with rst := true }.rst = true ∧ unpowered.sequencer.busy = false ∧
    modeOf unpowered.session = some .unpowered ∧ modeOf pm.session ≠ some .unpowered ∧
    (busyWith []).sequencer.busy = true := by decide

theorem witness_ItemwiseStepsReachTheAtomicResult :
    hostSteps (.burn 0#16) = some burnSteps ∧ pm.sequencer.seq = [] := by decide

theorem witness_ClockedWaitIsHonoured :
    { busyWith [] with datapath.dlycnt := 5#15 }.sequencer.busy = true ∧
    ([tick, tick, { tick with tickUs := false }, tick, tick].filter (·.tickUs)).length <
      { busyWith [] with datapath.dlycnt := 5#15 }.datapath.dlycnt.toNat := by decide

theorem witness_PortHandshake :
    (busyWith [.ret .done]).sequencer.busy = true ∧ pm.sequencer.busy = false ∧
    (presenting 0x5#4 0x1234#16).reqValid = true ∧
    requestAssigned (requestWord (presenting 0x5#4 0x1234#16)) = true ∧
    requestAssigned (requestWord (presenting 0x8#4 0x0000#16)) = false := by decide

/-- `setProgrammingMode(true)` from `Unpowered`, with a tick in every cycle: 16 items and 21 ticks. -/
theorem witness_ClockedOperationRefinesExec :
    Idle unpowered ∧ (presenting 0x2#4 1#16).reqValid = true ∧
    decode (.request (requestWord (presenting 0x2#4 1#16))) = .ok (.setProgrammingModeTrue 0#15) ∧
    (∀ k : Nat, k < (List.replicate 37 tick).length →
      (clockRun (presenting 0x2#4 1#16 :: (List.replicate 37 tick).take k) unpowered).sequencer.busy = true) ∧
    (clockRun (presenting 0x2#4 1#16 :: List.replicate 37 tick) unpowered).sequencer.busy = false := by decide +kernel

/-- R266: a clocked input pulse samples `DAT_I` in the cycle of its `RD(DAT)` and in no other: the tenth, after three
statements, the load of `DLYCNT` with 5, and five ticks. -/
theorem test_levelsAtPin :
    levelsAtPin (List.replicate 9 tick ++ [{ tick with datI := true }] ++ List.replicate 9 tick)
      (busyWith ((shiftIn 1).map .prim ++ [.ret .raw])) = [true] := by decide +kernel

theorem witness_ClockedOperationCompletes :
    Idle powered ∧ (presenting 0x1#4 0#16).reqValid = true ∧
    decode (.request (requestWord (presenting 0x1#4 0#16))) = .ok (.setPowerFalse 0#15) ∧
    tick.tickUs = true ∧ tick.reqValid = false := by decide

theorem witness_PinsFollowTheMode :
    AtMode .unpowered State.reset ∧ AtMode .powered powered ∧ AtMode .programmingMode pm := by decide

end Sys2Proof.Tests
end

/-! PROOF (O20). The order of waits and Session writes in the step lists of the transitions (10_state R28). -/

namespace Sys2Proof.Machine

/-- A statement that writes a Session field performs no primitive (R13). -/
theorem applyPrim_lines_bench (p : Prim) (s : State) (h : writesSession p = true) :
    (applyPrim p s).lines = s.lines ∧ (applyPrim p s).bench = s.bench := by
  cases p <;> simp_all [applyPrim, writesSession]

theorem applyAll_lines_bench (ps : List Prim) (s : State) (h : ∀ p ∈ ps, writesSession p = true) :
    (applyAll ps s).lines = s.lines ∧ (applyAll ps s).bench = s.bench := by
  induction ps generalizing s with
  | nil => exact ⟨rfl, rfl⟩
  | cons p ps ih =>
    obtain ⟨hlines, hbench⟩ := applyPrim_lines_bench p s (h p List.mem_cons_self)
    obtain ⟨ihlines, ihbench⟩ := ih (applyPrim p s) fun q hq => h q (List.mem_cons_of_mem p hq)
    exact ⟨ihlines.trans hlines, ihbench.trans hbench⟩

/-- The `n`-th place of `body` parts the statements that write no Session field from those that write one. -/
def SessionWritesFrom (n : Nat) (body : List Prim) : Prop :=
  (∀ p ∈ body.take n, writesSession p = false) ∧ (∀ p ∈ body.drop n, writesSession p = true)

section
variable {n k : Nat} {body : List Prim} (h : SessionWritesFrom n body) (s : State)
include h

/-- A run that ends before the parting place has written no Session field. -/
theorem SessionWritesFrom.session_take (hk : k ≤ n) : (applyAll (body.take k) s).session = s.session :=
  applyAll_session _ s fun p hp => h.1 p (List.take_subset_take_left body hk hp)

/-- A run that goes on past the parting place has the lines and the trace it had there. -/
theorem SessionWritesFrom.lines_bench_take (hk : n ≤ k) :
    (applyAll (body.take k) s).lines = (applyAll (body.take n) s).lines ∧
    (applyAll (body.take k) s).bench = (applyAll (body.take n) s).bench := by
  have hsplit : body.take k = body.take n ++ (body.drop n).take (k - n) := by
    rw [← List.take_add, Nat.add_sub_cancel' hk]
  rw [hsplit, applyAll_append]
  exact applyAll_lines_bench _ _ fun p hp => h.2 p (List.mem_of_mem_take hp)

end

theorem enterPM_sessionWritesFrom : SessionWritesFrom 9 enterPM := ⟨by decide, by decide⟩
theorem exitPM_sessionWritesFrom : SessionWritesFrom 9 exitPM := ⟨by decide, by decide⟩
theorem powerUp_sessionWritesFrom : SessionWritesFrom 2 powerUp := ⟨by decide, by decide⟩
theorem powerDown_sessionWritesFrom : SessionWritesFrom 2 powerDown := ⟨by decide, by decide⟩

/-- Each of the four step lists has a parting place (R183, R184, R186, R187). -/
theorem transition_sessionWritesFrom {body : List Prim} (h : body ∈ [enterPM, exitPM, powerUp, powerDown]) :
    ∃ n, SessionWritesFrom n body := by
  simp only [List.mem_cons, List.not_mem_nil, or_false] at h
  obtain rfl | rfl | rfl | rfl := h
  · exact ⟨9, enterPM_sessionWritesFrom⟩
  · exact ⟨9, exitPM_sessionWritesFrom⟩
  · exact ⟨2, powerUp_sessionWritesFrom⟩
  · exact ⟨2, powerDown_sessionWritesFrom⟩

/-- Settles O20: the place is where the statements that write a Session field begin; those before it write none, those
after it perform no primitive. -/
theorem flagsAreWrittenAfterTheWaits : Obligations.FlagsAreWrittenAfterTheWaits := by
  intro body hbody
  obtain ⟨n, h⟩ := transition_sessionWritesFrom hbody
  refine ⟨n, fun k s => ⟨h.session_take s, fun hk => ?_⟩⟩
  obtain ⟨hlines, hbench⟩ := h.lines_bench_take s hk
  exact ⟨congrArg Bench.trace hbench, hlines⟩

end Sys2Proof.Machine

/-! PROOF (O10). A reserved request code at the port of an idle engine (30_encoding R101, R104). -/

namespace Sys2Proof

/-- `op` is the quotient by which the check on request words speaks of it (R100). -/
theorem requestOp_toNat (r : BitVec 20) : (requestOp r).toNat = r.toNat / 65536 := by
  simp only [requestOp, BitVec.extractLsb'_toNat, Nat.shiftRight_eq_div_pow]
  omega

/-- The request decoder rejects the reserved codes, by name (R104). -/
theorem decodeRequest_of_reserved {r : BitVec 20} (h : requestAssigned r = false) :
    decodeRequest r = .error (.reservedRequest (requestOp r)) := by
  have hop : ¬ (1 ≤ (requestOp r).toNat ∧ (requestOp r).toNat ≤ 7) := by
    rw [requestOp_toNat]; exact of_decide_eq_false h
  unfold decodeRequest
  split
  case h_8 => rfl
  all_goals omega

end Sys2Proof

namespace Sys2Proof.Machine

open Safety (concluded)

theorem step_of_fetch_done {s t : State} (h : fetch s = .done t) : step s = .next t := by
  simp only [step, h]

theorem fetch_of_idle {s : State} (h : s.sequencer.busy = false) : fetch s = fetchRequest s := by
  simp [fetch, h]

/-- A request that no instruction stands for is taken from the port and answered at once (R104). -/
theorem fetchRequest_of_decode_error {s : State} {r : BitVec 20} {rest : List (BitVec 20)} {e : DecodeError}
    (hreq : s.bench.requests = r :: rest) (hdec : decodeRequest r = .error e) :
    fetchRequest s = .done (reply .fail (accept { s with bench.requests := rest })) := by
  simp only [fetchRequest, hreq, hdec]

/-- An operation that ends leaves no sign of its acceptance: `busy` and the response are written again (R101). -/
@[simp] theorem concluded_accept (ev : List Event) (ok : Bool) (d : Word) (s : State) :
    concluded ev ok d (accept s) = concluded ev ok d s := rfl

/-- Settles O10: the decoder rejects the code, so the step is the failure reply, the end of an operation without events. -/
theorem reservedRequestIsAnsweredWithFailure : Obligations.ReservedRequestIsAnsweredWithFailure := by
  intro s r rest hidle hreq hres
  calc step s
    _ = .next (reply .fail (accept { s with bench.requests := rest })) :=
      step_of_fetch_done <| (fetch_of_idle hidle).trans <|
        fetchRequest_of_decode_error hreq (decodeRequest_of_reserved hres)
    _ = .next (concluded [] false 0xFFFF#16 { s with bench.requests := rest }) := by
      rw [reply_eq_concluded, concluded_accept, replyOk, replyData]
    _ = .next { concluded [] false 0xFFFF#16 s with bench.requests := rest } := rfl

end Sys2Proof.Machine

/-! PROOF (O35). The output half of the bit serializer (41_bit_serializer R141, R142). -/

namespace Sys2Proof.Machine

open Safety (lsbFirst lsbFirst_length pulsesOut pulsesOut_length minDuration_pulsesOut)

/-- With no bit to send, `shiftOut` loads `SR` and `BITCNT` and performs no primitive (R141). -/
theorem applyAll_shiftOut_zero (v : Word) (s : State) :
    applyAll (shiftOut v 0) s = { s with datapath.sr := v, datapath.bitcnt := 0#5 } := rfl

/-- `shiftOut` for every count: the clause of no bit and the clause of at least one, in one equation. -/
theorem applyAll_shiftOut (v : Word) (n : Nat) (s : State) :
    applyAll (shiftOut v n) s = { s with
      lines := if n = 0 then s.lines else { s.lines with outCLK := false, outDAT := v.getLsbD (n - 1) }
      datapath := { s.datapath with
        sr := v >>> n, bitcnt := 0#5, dlycnt := if n = 0 then s.datapath.dlycnt else 0#15 }
      bench.trace := s.bench.trace ++ pulsesOut (lsbFirst n v) } := by
  cases n with
  | zero => simp [applyAll_shiftOut_zero, lsbFirst, pulsesOut]
  | succ n => simp [applyAll_shiftOut_succ]

/-- Settles O35: a pulse is six events and three microseconds, and `n` bits are sent. -/
theorem shiftOutSendsLeastSignificantFirst : Obligations.ShiftOutSendsLeastSignificantFirst := by
  intro v n s _
  refine ⟨applyAll_shiftOut v n s, ?_, ?_⟩
  · rw [pulsesOut_length, lsbFirst_length]
  · rw [minDuration_pulsesOut, lsbFirst_length]

end Sys2Proof.Machine

/-! PROOF (O18). The transition table (43_power_mode R189): what a step list does from a boundary in a named mode, one rule
an item, and the cells put together from the rules; and the guarded operations at a boundary in ProgrammingMode. -/

namespace Sys2Proof.Safety

open Sys2Proof.Machine

/-! ### A boundary in a named mode -/

/-- A mode is the value of the two flags (R26). -/
theorem modeOf_eq_some_iff {x : Session} {m : Mode} :
    modeOf x = some m ↔ x.hasPower = (m != .unpowered) ∧ x.inProgrammingMode = (m == .programmingMode) := by
  unfold modeOf
  split <;> cases m <;> simp_all

/-- What a test of the pseudocode finds in a mode when `EXIT_PM_GUARDED` is false (R191). -/
def answerAt (m : Mode) : Cond → Bool
  | .inProgrammingMode => m == .programmingMode
  | .notInProgrammingMode => m != .programmingMode
  | .hasPower => m != .unpowered
  | .notHasPower => m == .unpowered
  | .guardedAndNotInProgrammingMode => false

section
variable {m m' : Mode} {s t : State}

theorem AtMode.mode (h : AtMode m s) : modeOf s.session = some m := h.2
theorem AtMode.sequencer (h : AtMode m s) : s.sequencer = { busy := false, seq := [] } := h.1.1.1
theorem AtMode.dlycnt (h : AtMode m s) : s.datapath.dlycnt = 0#15 := h.1.1.2
theorem AtMode.lines (h : AtMode m s) : s.lines = boundaryLines s.session := h.1.2.2

theorem AtMode.memoryLength (h : AtMode m s) : memoryLengthOk s.params.locW s.session.memoryLength = true :=
  h.1.2.1.2.1

theorem AtMode.location (h : AtMode m s) : -1 ≤ s.session.location ∧ s.session.location < s.session.memoryLength :=
  h.1.2.1.2.2

theorem AtMode.hasPower (h : AtMode m s) : s.session.hasPower = (m != .unpowered) :=
  (modeOf_eq_some_iff.1 h.mode).1

theorem AtMode.inProgrammingMode (h : AtMode m s) : s.session.inProgrammingMode = (m == .programmingMode) :=
  (modeOf_eq_some_iff.1 h.mode).2

theorem AtMode.condHolds_eq (h : AtMode m s) (hg : s.params.exitPmGuarded = false) (c : Cond) :
    condHolds c s = answerAt m c := by
  cases c <;> simp [condHolds, answerAt, h.inProgrammingMode, h.hasPower, hg, bne]

/-- From one boundary to another: what a step list has to see to, the idle sequencer and the parameters being kept. -/
theorem AtMode.change (h : AtMode m s) (hseq : t.sequencer = s.sequencer) (hpar : t.params = s.params)
    (hml : t.session.memoryLength = s.session.memoryLength) (hdly : t.datapath.dlycnt = 0#15)
    (hloc : -1 ≤ t.session.location ∧ t.session.location < t.session.memoryLength)
    (hmode : modeOf t.session = some m') (hlines : t.lines = boundaryLines t.session) : AtMode m' t := by
  have hflags : t.session.inProgrammingMode = true → t.session.hasPower = true := by
    obtain ⟨hp, hi⟩ := modeOf_eq_some_iff.1 hmode
    rw [hp, hi]
    cases m' <;> decide
  have hlen : memoryLengthOk t.params.locW t.session.memoryLength = true := by
    rw [hpar, hml]; exact h.memoryLength
  exact ⟨⟨⟨hseq.trans h.sequencer, hdly⟩, ⟨hflags, hlen, hloc⟩, hlines⟩, hmode⟩

/-- What is neither Session, line, sequencer, wait nor parameter makes no difference to a boundary. -/
theorem AtMode.congr (h : AtMode m s) (hseq : t.sequencer = s.sequencer) (hpar : t.params = s.params)
    (hses : t.session = s.session) (hdly : t.datapath.dlycnt = 0#15) (hlines : t.lines = s.lines) : AtMode m t :=
  h.change hseq hpar (by rw [hses]) hdly (by rw [hses]; exact h.location) (by rw [hses]; exact h.mode)
    (by rw [hses, hlines, h.lines])

/-- A reply ends an operation at the boundary it stands at (R101). -/
theorem AtMode.reply (h : AtMode m s) (r : Reply) : AtMode m (reply r s) :=
  h.congr (by rw [reply_sequencer, h.sequencer]) rfl rfl h.dlycnt rfl

end

/-! ### The transitions: one rule an item -/

/-- With `EXIT_PM_GUARDED = false`, `f` takes a boundary in mode `m` to one in mode `m'` and performs `events`. -/
def Leads (m : Mode) (f : State → State) (events : List Event) (m' : Mode) : Prop :=
  ∀ s, AtMode m s → s.params.exitPmGuarded = false →
    AtMode m' (f s) ∧ (f s).params = s.params ∧ (f s).bench.trace = s.bench.trace ++ events

/-- The entry list, from any mode (R186). -/
theorem leads_enterPM (m : Mode) : Leads m (applyAll enterPM) E .programmingMode := by
  intro s h _
  rw [applyAll_enterPM]
  obtain ⟨hlo, hhi⟩ := h.location
  exact ⟨h.change rfl rfl rfl rfl ⟨le_rfl, hlo.trans_lt hhi⟩ rfl rfl, rfl, rfl⟩

/-- The exit list, from any mode (R187). -/
theorem leads_exitPM (m : Mode) : Leads m (applyAll exitPM) X .unpowered := by
  intro s h _
  rw [applyAll_exitPM]
  exact ⟨h.change rfl rfl rfl rfl h.location rfl rfl, rfl, rfl⟩

theorem leads_powerUp : Leads .unpowered (applyAll powerUp) U .powered := by
  intro s h _
  rw [applyAll_powerUp]
  refine ⟨h.change rfl rfl rfl rfl h.location (modeOf_eq_some_iff.2 ⟨rfl, h.inProgrammingMode⟩) ?_, rfl, rfl⟩
  simp [h.lines, boundaryLines]

theorem leads_powerDown : Leads .powered (applyAll powerDown) D .unpowered := by
  intro s h _
  rw [applyAll_powerDown]
  refine ⟨h.change rfl rfl rfl rfl h.location (modeOf_eq_some_iff.2 ⟨rfl, h.inProgrammingMode⟩) ?_, rfl, rfl⟩
  simp [h.lines, boundaryLines]

section
variable {m m' m'' : Mode} {f g : State → State} {ev ev' : List Event} {body : List Prim} {rest : List Item} {c : Cond}
  {r : Reply}

theorem Leads.comp (hg : Leads m' g ev' m'') (hf : Leads m f ev m') : Leads m (g ∘ f) (ev ++ ev') m'' := by
  intro s h hguard
  obtain ⟨hmode, hpar, htrace⟩ := hf s h hguard
  obtain ⟨hmode', hpar', htrace'⟩ := hg (f s) hmode (by rw [hpar, hguard])
  exact ⟨hmode', hpar'.trans hpar, by simp [htrace', htrace]⟩

theorem leads_ret : Leads m (perform (.ret r :: rest)) [] m :=
  fun _ h _ => ⟨h.reply r, rfl, (List.append_nil _).symm⟩

/-- In a mode that answers the test with yes, the operation returns there. -/
theorem leads_returnWhen (hc : answerAt m c = true) :
    Leads m (perform (.returnWhen c r :: rest)) [] m := by
  intro s h hguard
  simpa only [perform, h.condHolds_eq hguard, hc, if_true] using leads_ret (rest := rest) s h hguard

/-- In a mode that answers the test with no, the operation goes on. -/
theorem Leads.skipReturn (hc : answerAt m c = false) (hrest : Leads m (perform rest) ev m') :
    Leads m (perform (.returnWhen c r :: rest)) ev m' := by
  intro s h hguard
  simpa [perform, h.condHolds_eq hguard, hc] using hrest s h hguard

theorem Leads.whenDo (hc : answerAt m c = true) (hbody : Leads m (applyAll body) ev m')
    (hrest : Leads m' (perform rest) ev' m'') : Leads m (perform (.whenDo c body :: rest)) (ev ++ ev') m'' := by
  intro s h hguard
  simpa [perform, h.condHolds_eq hguard, hc] using hrest.comp hbody s h hguard

theorem Leads.skipBody (hc : answerAt m c = false) (hrest : Leads m (perform rest) ev m') :
    Leads m (perform (.whenDo c body :: rest)) ev m' := by
  intro s h hguard
  simpa [perform, h.condHolds_eq hguard, hc] using hrest s h hguard

theorem Leads.prims (hbody : Leads m (applyAll body) ev m') (hrest : Leads m' (perform rest) ev' m'') :
    Leads m (perform (body.map .prim ++ rest)) (ev ++ ev') m'' := by
  intro s h hguard
  simpa only [perform_prims, Function.comp_apply] using hrest.comp hbody s h hguard

end

/-! ### The cells -/

theorem leads_setPowerTrue_unpowered : Leads .unpowered (perform setPowerTrueSteps) U .powered :=
  .skipBody rfl <| .whenDo rfl leads_powerUp <| leads_ret

theorem leads_setPowerTrue_powered : Leads .powered (perform setPowerTrueSteps) [] .powered :=
  .skipBody rfl <| .skipBody rfl <| leads_ret

theorem leads_setPowerTrue_programmingMode : Leads .programmingMode (perform setPowerTrueSteps) (X ++ U) .powered :=
  .whenDo rfl (leads_exitPM _) <| .whenDo rfl leads_powerUp <| leads_ret

theorem leads_setPowerFalse_unpowered : Leads .unpowered (perform setPowerFalseSteps) [] .unpowered :=
  .skipBody rfl <| .skipBody rfl <| leads_ret

theorem leads_setPowerFalse_powered : Leads .powered (perform setPowerFalseSteps) D .unpowered :=
  .skipBody rfl <| .whenDo rfl leads_powerDown <| leads_ret

theorem leads_setPowerFalse_programmingMode : Leads .programmingMode (perform setPowerFalseSteps) X .unpowered :=
  .whenDo rfl (leads_exitPM _) <| .skipBody rfl <| leads_ret

theorem leads_setProgrammingModeTrue_unpowered :
    Leads .unpowered (perform setProgrammingModeTrueSteps) E .programmingMode :=
  .skipReturn rfl <| .skipBody rfl <| .skipBody rfl <| .prims (leads_enterPM _) <| leads_ret

theorem leads_setProgrammingModeTrue_powered :
    Leads .powered (perform setProgrammingModeTrueSteps) (D ++ E) .programmingMode :=
  .skipReturn rfl <| .skipBody rfl <| .whenDo rfl leads_powerDown <| .prims (leads_enterPM _) <| leads_ret

theorem leads_setProgrammingModeTrue_programmingMode :
    Leads .programmingMode (perform setProgrammingModeTrueSteps) [] .programmingMode :=
  leads_returnWhen rfl

theorem leads_setProgrammingModeFalse (m : Mode) : Leads m (perform setProgrammingModeFalseSteps) X .unpowered :=
  .skipReturn rfl <| .prims (leads_exitPM _) <| leads_ret

/-- A host operation is its step list run to completion (R72). -/
theorem exec_of_hostSteps {i : Instr} {items : List Item} (h : hostSteps i = some items) (s : State) :
    exec i s = .next (perform items s) := by
  cases i <;> cases h <;> rfl

/-- Each cell of the table: the step list leads to its mode with its trace, and the trace takes its time (R189). -/
theorem transition_leads {m m' : Mode} {i : Instr} {events : List Event} {d : Nat}
    (h : transition m i = some (m', events, d)) :
    ∃ items, hostSteps i = some items ∧ Leads m (perform items) events m' ∧ minDuration events = d := by
  unfold transition at h
  split at h <;> cases h
  · exact ⟨_, rfl, leads_setPowerTrue_unpowered, rfl⟩
  · exact ⟨_, rfl, leads_setPowerTrue_powered, rfl⟩
  · exact ⟨_, rfl, leads_setPowerTrue_programmingMode, rfl⟩
  · exact ⟨_, rfl, leads_setPowerFalse_unpowered, rfl⟩
  · exact ⟨_, rfl, leads_setPowerFalse_powered, rfl⟩
  · exact ⟨_, rfl, leads_setPowerFalse_programmingMode, rfl⟩
  · exact ⟨_, rfl, leads_setProgrammingModeTrue_unpowered, rfl⟩
  · exact ⟨_, rfl, leads_setProgrammingModeTrue_powered, rfl⟩
  · exact ⟨_, rfl, leads_setProgrammingModeTrue_programmingMode, rfl⟩
  · exact ⟨_, rfl, leads_setProgrammingModeFalse m, rfl⟩

/-! ### The guarded operations, at a boundary in ProgrammingMode -/

section
variable {s : State}

/-- The line state of ProgrammingMode (R180). -/
theorem AtMode.lines_programmingMode (h : AtMode .programmingMode s) :
    s.lines = { outVDD := true, outVPP := true, dirCLK := .out, outCLK := false, dirDAT := .out, outDAT := false } := by
  rw [h.lines]
  simp [boundaryLines, h.hasPower, h.inProgrammingMode]

theorem AtMode.delay {m : Mode} (h : AtMode m s) (n : Nat) : AtMode m (applyPrim (.dly n) s) :=
  h.congr rfl rfl rfl rfl rfl

/-- A wire command leaves both latches at 0, as it found them (R168). -/
theorem AtMode.issueCommand (h : AtMode .programmingMode s) (c : CmdSel) :
    AtMode .programmingMode (applyAll (issueCommand c) s) := by
  rw [applyAll_issueCommand]
  exact h.congr rfl rfl rfl rfl (by simp [h.lines_programmingMode])

/-- The incrementer stays in the range of `location` (R23, R211). -/
theorem AtMode.advanceLocation {m : Mode} (h : AtMode m s) : AtMode m (applyPrim .advanceLocation s) := by
  have hml : (0 : Int) < s.session.memoryLength := by
    obtain ⟨-, hpos, -⟩ := of_decide_eq_true h.memoryLength
    omega
  have hlo := Int.emod_nonneg (s.session.location + 1) hml.ne'
  have hhi := Int.emod_lt_of_pos (s.session.location + 1) hml
  refine h.change rfl rfl rfl h.dlycnt ?_ h.mode h.lines
  simp only [applyPrim, advanceLocation_session, nextLocation_eq _ _ _ h.memoryLength]
  omega

/-- The write frame and the `WR(DAT,0)` after it leave the lines as they found them (R222, R227). -/
theorem AtMode.writeFrame (h : AtMode .programmingMode s) (v : Word) :
    AtMode .programmingMode (applyPrim (.wr .dat false) (applyAll (shiftOut v Config.FRAME_BITS) s)) := by
  rw [applyAll_shiftOut_succ]
  exact h.congr rfl rfl rfl rfl (by simp [applyPrim, setOut, h.lines_programmingMode])

/-- The read frame turns `DAT` to an input and back (R221, R227). -/
theorem AtMode.readFrame (h : AtMode .programmingMode s) :
    AtMode .programmingMode (applyPrim (.dir .dat .out) (applyAll (shiftIn Config.FRAME_BITS)
      (applyPrim (.dly TT.commandDelay) (applyPrim (.dir .dat .inp) s)))) := by
  rw [applyAll_shiftIn_succ]
  exact h.congr rfl rfl rfl rfl (by simp [applyPrim, setDir, h.lines_programmingMode])

end

/-- A guarded operation is its guard and a step list that keeps a boundary in ProgrammingMode (R211, R221 to R224). -/
theorem hostSteps_of_guarded {i : Instr} (hi : isGuarded i = true) :
    ∃ rest, hostSteps i = some (.returnWhen .notInProgrammingMode .fail :: rest) ∧
      ∀ s, AtMode .programmingMode s → AtMode .programmingMode (perform rest s) := by
  cases i <;> cases hi
  case incAddress ig =>
    exact ⟨_, rfl, fun s h => (((h.issueCommand _).delay _).advanceLocation).reply _⟩
  case readWord f ig =>
    refine ⟨.command .readDataPm :: .prim (.dir .dat .inp) :: .prim (.dly TT.commandDelay) ::
      ((shiftIn Config.FRAME_BITS).map .prim ++ [.prim (.dir .dat .out), .ret _]), rfl, fun s h => ?_⟩
    simpa only [perform, perform_prims] using (h.issueCommand .readDataPm).readFrame.reply _
  case writeWord w =>
    refine ⟨.command .loadDataPm :: .prim (.dly TT.commandDelay) ::
      ((shiftOut (frame w) Config.FRAME_BITS).map .prim ++ [.prim (.wr .dat false), .ret .done]), rfl, fun s h => ?_⟩
    simpa only [perform, perform_prims] using
      (((h.issueCommand .loadDataPm).delay _).writeFrame (frame w)).reply _
  case burn ig =>
    exact ⟨_, rfl, fun s h => ((((h.issueCommand _).delay _).issueCommand _).delay _).reply _⟩
  case erase ig =>
    exact ⟨_, rfl, fun s h => ((h.issueCommand _).delay _).reply _⟩

/-- A guarded operation leaves the mode as it is: by its failure outside ProgrammingMode (R251), by its steps inside. -/
theorem exec_guarded_atMode {m : Mode} {i : Instr} {s : State} (h : AtMode m s) (hi : isGuarded i = true) :
    ∃ t, exec i s = .next t ∧ AtMode m t := by
  obtain ⟨rest, hsteps, hrest⟩ := hostSteps_of_guarded hi
  refine ⟨_, exec_of_hostSteps hsteps s, ?_⟩
  simp only [perform, condHolds, h.inProgrammingMode]
  by_cases hm : m = .programmingMode
  · subst hm
    simpa using hrest s h
  · simpa [hm] using h.reply .fail

/-- Settles O18: the cells by the rules of the step lists, the other five operations by their guard. -/
theorem transitionTableHolds : Obligations.TransitionTableHolds := by
  refine ⟨fun m m' i events d s h hguard hcell => ?_, fun m i s h hi => exec_guarded_atMode h hi⟩
  obtain ⟨items, hsteps, hleads, hdur⟩ := transition_leads hcell
  obtain ⟨hmode, -, htrace⟩ := hleads s h hguard
  exact ⟨_, exec_of_hostSteps hsteps s, hmode, htrace, hdur⟩

end Sys2Proof.Safety

/-! PROOF (O23). Repeated increments of the address tracker (44_address_tracker R211, R213). -/

namespace Sys2Proof.Machine

open Safety (execTimes)

section
variable {s t : State}

/-- A run of one instruction goes on from where its first call leads. -/
theorem execTimes_succ_of_next {i : Instr} (n : Nat) (h : exec i s = .next t) :
    execTimes i (n + 1) s = execTimes i n t := by
  simp only [execTimes, h]

variable (ig : BitVec 16) (hpm : s.session.inProgrammingMode = true)
  (hml : memoryLengthOk s.params.locW s.session.memoryLength = true)
include hpm hml

/-- Of the Session and the parameters `incAddress()` writes `location` alone, modulo `memoryLength` (R211). -/
theorem exec_incAddress_session :
    ∃ t, exec (.incAddress ig) s = .next t ∧ t.params = s.params ∧
      t.session = { s.session with location := (s.session.location + 1) % (s.session.memoryLength : Int) } := by
  have hguard : condHolds .notInProgrammingMode s = false := by simp [condHolds, hpm]
  refine ⟨_, rfl, ?_⟩
  simp [incAddressSteps, perform, hguard, applyAll_issueCommand, applyPrim, nextLocation_eq _ _ _ hml]

/-- From any `location`, one increment or more add up before the remainder is taken (R213). -/
theorem execTimes_incAddress_location (n : Nat) :
    ∃ t, execTimes (.incAddress ig) n s = .next t ∧
      t.session.location =
        if n = 0 then s.session.location else (s.session.location + n) % (s.session.memoryLength : Int) := by
  induction n generalizing s with
  | zero => exact ⟨s, rfl, rfl⟩
  | succ n ih =>
    obtain ⟨u, hexec, hpar, hses⟩ := exec_incAddress_session ig hpm hml
    obtain ⟨t, htimes, hloc⟩ := ih (s := u) (by rw [hses, hpm]) (by rw [hpar, hses, hml])
    refine ⟨t, (execTimes_succ_of_next n hexec).trans htimes, ?_⟩
    rw [hloc, hses]
    by_cases hn : n = 0
    · simp [hn]
    · simp [hn, Int.emod_add_emod, add_assoc, add_comm (n : Int) 1]

end

/-- Settles O23: the increments add up from the sentinel, and -1 + n is n - 1. -/
theorem incAddressClosedForm : Obligations.IncAddressClosedForm := by
  intro ig n s hpm hml hloc
  obtain ⟨t, htimes, ht⟩ := execTimes_incAddress_location ig hpm hml n
  refine ⟨t, htimes, ?_⟩
  rw [ht, hloc, neg_add_eq_sub]

end Sys2Proof.Machine

/-! PROOF (O29, O28). The guard of the programming operations, and the operations that send commands with their holds
(45_programming_ops R220, R223, R224). -/

namespace Sys2Proof.Machine

open Safety (concluded CMD minDuration minDuration_append minDuration_pulsesOut pulsesOut_length isGuarded
  hostSteps_of_guarded exec_of_hostSteps)

/-! ### The guard -/

section
variable {s : State}

/-- Outside ProgrammingMode a guarded operation is the failure and nothing else (R220, R251). -/
theorem exec_guarded_outside {i : Instr} (hi : isGuarded i = true) (h : s.session.inProgrammingMode = false) :
    exec i s = .next (concluded [] false 0xFFFF#16 s) := by
  obtain ⟨rest, hsteps, -⟩ := hostSteps_of_guarded hi
  simp [exec_of_hostSteps hsteps, perform, condHolds, h, reply_eq_concluded, replyOk, replyData]

/-- Inside ProgrammingMode the guard lets the operation go on. -/
theorem perform_guard_inside (h : s.session.inProgrammingMode = true) (rest : List Item) :
    perform (.returnWhen .notInProgrammingMode .fail :: rest) s = perform rest s := by
  simp [perform, condHolds, h]

end

/-! ### Commands and their holds -/

/-- `s` with events added to its trace. -/
def traced (events : List Event) (s : State) : State :=
  { s with bench.trace := s.bench.trace ++ events }

/-- Both latches low and the datapath as the sending of `c` leaves it (R160, R168). -/
def afterSending (c : CmdSel) (s : State) : State :=
  { s with
    lines := { s.lines with outCLK := false, outDAT := false }
    datapath := { s.datapath with sr := 0#16, bitcnt := 0#5, cmdsel := c, dlycnt := 0#15 } }

section
variable (c : CmdSel) (ev ev' : List Event) (s : State)

/-- `issueCommand` in these terms. -/
theorem applyAll_issueCommand_traced : applyAll (issueCommand c) s = traced (CMD c) (afterSending c s) :=
  applyAll_issueCommand c s

theorem traced_traced : traced ev' (traced ev s) = traced (ev ++ ev') s := by
  simp [traced]

theorem afterSending_traced : afterSending c (traced ev s) = traced ev (afterSending c s) := rfl

/-- Of two commands the later one shows in the datapath. -/
theorem afterSending_afterSending (c' : CmdSel) : afterSending c (afterSending c' s) = afterSending c s := rfl

/-- A wait after a command leaves its token only: `DLYCNT` is at zero already. -/
theorem applyPrim_dly_afterSending (n : Nat) :
    applyPrim (.dly n) (traced ev (afterSending c s)) = traced (ev ++ [.dly n]) (afterSending c s) := by
  rw [← traced_traced]
  rfl

/-- The reply without data ends an operation that performed what was traced. -/
theorem reply_done_traced : reply .done (traced ev s) = concluded ev true 0x0000#16 s := by
  simp [reply_eq_concluded, replyOk, replyData, traced, concluded]

theorem CMD_length : (CMD c).length = 36 := by
  cases c <;> simp [CMD, pulsesOut_length, Safety.commandBits]

theorem minDuration_CMD : minDuration (CMD c) = 18 := by
  cases c <;> simp [CMD, minDuration_pulsesOut, Safety.commandBits]

end

section
variable {s : State} (h : s.session.inProgrammingMode = true)
include h

/-- `erase()` inside ProgrammingMode (R224). -/
theorem exec_erase_inside (ig : BitVec 16) :
    exec (.erase ig) s =
      .next (concluded (CMD .bulkErase ++ [.dly 20000]) true 0x0000#16 (afterSending .bulkErase s)) := by
  calc exec (.erase ig) s
    _ = .next (perform eraseSteps s) := rfl
    _ = _ := by
      rw [eraseSteps, perform_guard_inside h]
      simp only [perform, applyAll_issueCommand_traced, applyPrim_dly_afterSending, reply_done_traced, TT]

/-- `burn()` inside ProgrammingMode: each command is followed directly by its hold (R223). -/
theorem exec_burn_inside (ig : BitVec 16) :
    exec (.burn ig) s = .next (concluded (CMD .beginProg ++ [.dly 10000] ++ CMD .endProg ++ [.dly 1000]) true 0x0000#16
      (afterSending .endProg s)) := by
  calc exec (.burn ig) s
    _ = .next (perform burnSteps s) := rfl
    _ = _ := by
      rw [burnSteps, perform_guard_inside h]
      simp only [perform, applyAll_issueCommand_traced, applyPrim_dly_afterSending, afterSending_traced,
        afterSending_afterSending, traced_traced, reply_done_traced, TT]

end

/-- Settles O29: outside, the guard; inside, one command and its hold. -/
theorem eraseHoldsForEraseTime : Obligations.EraseHoldsForEraseTime := by
  intro ig s
  refine ⟨exec_guarded_outside rfl, fun h => exec_erase_inside h ig, ?_, ?_⟩
  · simp [CMD_length]
  · simp [minDuration_append, minDuration_CMD, minDuration]

/-- Settles O28: outside, the guard; inside, two commands, each with its hold. -/
theorem burnCommitsWithBothHolds : Obligations.BurnCommitsWithBothHolds := by
  intro ig s
  refine ⟨exec_guarded_outside rfl, fun h => exec_burn_inside h ig, ?_, ?_⟩
  · simp [CMD_length]
  · simp [minDuration_append, minDuration_CMD, minDuration]

end Sys2Proof.Machine

/-! PROOF (O27). The frame of `writeWord` (20_memory R66, 45_programming_ops R222). -/

namespace Sys2Proof.Machine

open Safety (concluded CMD frameBits lsbFirst lsbFirst_length pulsesOut pulsesOut_length minDuration minDuration_append
  minDuration_pulsesOut)

/-! ### The frame as bits -/

/-- The fourteen-bit mask is the remainder modulo `2^14`. -/
theorem toNat_and_mask (w : Word) : (w &&& 0x3FFF#16).toNat = w.toNat % 2 ^ 14 := by
  rw [BitVec.toNat_and]
  exact Nat.and_two_pow_sub_one_eq_mod w.toNat 14

/-- The low bit of a frame is its start bit, and after one shift the fourteen bits of the word stand in `SR` (R66). -/
theorem shiftOne_frame (w : Word) : shiftOne (frame w) = w &&& 0x3FFF#16 := by
  apply BitVec.eq_of_toNat_eq
  simp only [shiftOne, frame, BitVec.toNat_ushiftRight, BitVec.toNat_shiftLeft, toNat_and_mask,
    Nat.shiftLeft_eq, Nat.shiftRight_eq_div_pow]
  omega

theorem presentedLevel_frame (w : Word) : presentedLevel (frame w) = false := by
  simp [presentedLevel, frame]

/-- The mask keeps the bits `0 .. 13` and clears bit 14. -/
theorem lsbFirst_and_mask (w : Word) : lsbFirst 15 (w &&& 0x3FFF#16) = lsbFirst 14 w ++ [false] := by
  have hmask : ∀ k < 14, (0x3FFF#16).getLsbD k = true := by decide
  rw [lsbFirst, List.range_succ, List.map_append]
  congr 1
  · exact List.map_congr_left fun k hk => by simp [hmask k (List.mem_range.1 hk)]
  · simp

/-- `shiftOut` of the frame sends the start bit, the word's low fourteen bits, the stop bit (R66, R94). -/
theorem lsbFirst_frame (w : Word) : lsbFirst 16 (frame w) = frameBits w := by
  rw [lsbFirst_succ, presentedLevel_frame, shiftOne_frame, lsbFirst_and_mask]
  rfl

/-- Bits 15 and 14 of the word do not enter the frame (R222). -/
theorem frame_and_mask (w : Word) : frame (w &&& 0x3FFF#16) = frame w := by
  simp only [frame, BitVec.and_assoc, BitVec.and_self]

theorem frameBits_length (w : Word) : (frameBits w).length = 16 := by
  rw [← lsbFirst_frame, lsbFirst_length]

/-! ### The operation -/

/-- The events of `writeWord(w)` (R222). -/
def writeEvents (w : Word) : List Event :=
  CMD .loadDataPm ++ [.dly 5] ++ pulsesOut (frameBits w) ++ [.wr .dat false]

/-- The frame and the final `WR(DAT,0)`, after a command: `SR`, `BITCNT` and both latches end as the command left them. -/
theorem applyAll_writeFrame (c : CmdSel) (ev : List Event) (w : Word) (s : State) :
    applyPrim (.wr .dat false) (applyAll (shiftOut (frame w) Config.FRAME_BITS) (traced ev (afterSending c s))) =
      traced (ev ++ pulsesOut (frameBits w) ++ [.wr .dat false]) (afterSending c s) := by
  have hsr : frame w >>> 16 = 0#16 := BitVec.ushiftRight_eq_zero le_rfl
  rw [applyAll_shiftOut_succ, lsbFirst_frame, hsr, ← traced_traced, ← traced_traced]
  rfl

/-- `writeWord(w)` inside ProgrammingMode (R222). -/
theorem exec_writeWord_inside {s : State} (h : s.session.inProgrammingMode = true) (w : Word) :
    exec (.writeWord w) s = .next (concluded (writeEvents w) true 0x0000#16 (afterSending .loadDataPm s)) := by
  calc exec (.writeWord w) s
    _ = .next (perform (writeWordSteps w) s) := rfl
    _ = _ := by
      rw [writeWordSteps, List.cons_append, List.cons_append, perform_guard_inside h]
      simp only [List.cons_append, List.nil_append, List.append_assoc, perform, perform_prims, TT,
        applyAll_issueCommand_traced, applyPrim_dly_afterSending, applyAll_writeFrame, reply_done_traced, writeEvents]

/-- The meaning of `writeWord` sees the word through its frame only (R222). -/
theorem exec_writeWord_congr {w w' : Word} (h : frame w = frame w') (s : State) :
    exec (.writeWord w) s = exec (.writeWord w') s := by
  simp only [exec, execWriteWord, writeWordSteps, h]

/-- Settles O27: outside, the guard; inside, the command, its wait and the frame; the word enters by its frame only. -/
theorem writeWordSendsTheFrame : Obligations.WriteWordSendsTheFrame := by
  intro w s
  refine ⟨exec_guarded_outside rfl, fun h => ⟨writeEvents w, rfl, ?_, ?_, exec_writeWord_inside h w⟩,
    exec_writeWord_congr (frame_and_mask w).symm s⟩
  · simp [writeEvents, CMD_length, pulsesOut_length, frameBits_length]
  · simp [writeEvents, minDuration_append, minDuration_CMD, minDuration_pulsesOut, frameBits_length, minDuration]

end Sys2Proof.Machine

/-! PROOF (O26, O31). The frame of `readWord`, its two forms, and the round trip of a word (41_bit_serializer R144,
45_programming_ops R221, R225, R226). -/

namespace Sys2Proof.Machine

open Safety (concluded CMD answered frameBits lsbFirst pulsesIn wireBits wireBits_pulsesOut commandBits)

/-! ### The operation -/

/-- The sixteen levels a read frame is answered with (R62, R221). -/
def answeredLevels (s : State) : List Level :=
  takeLevels Config.FRAME_BITS s.bench.datIn s.bench.samples

/-- `raw`: what sampling the levels into a cleared `ACC` gives (R143). -/
def rawOf (levels : List Level) : Word := levels.foldl insertSample 0#16

/-- The events of `readWord` answered with `levels` (R221). -/
def readEvents (levels : List Level) : List Event :=
  CMD .readDataPm ++ [.dir .dat .inp, .dly 5] ++ pulsesIn levels ++ [.dir .dat .out]

/-- Everything `readWord` writes but the trace and the response (R221). -/
def afterReading (s : State) : State :=
  { s with
    lines := { s.lines with outCLK := false, outDAT := false, dirDAT := .out }
    datapath := { sr := 0#16, acc := rawOf (answeredLevels s), bitcnt := 0#5, cmdsel := .readDataPm, dlycnt := 0#15 }
    bench.datIn := s.bench.datIn.drop 16
    bench.samples := s.bench.samples + 16 }

/-- The read frame after the command, with `DAT` an input for its time. -/
theorem applyAll_readFrame (s : State) :
    applyPrim (.dir .dat .out) (applyAll (shiftIn Config.FRAME_BITS) (applyPrim (.dly 5)
      (applyPrim (.dir .dat .inp) (traced (CMD .readDataPm) (afterSending .readDataPm s))))) =
      traced (readEvents (answeredLevels s)) (afterReading s) := by
  rw [applyAll_shiftIn_succ, readEvents, ← traced_traced, ← traced_traced, ← traced_traced]
  simp [applyPrim, primDir, setDir, emit, loadDelay, elapseDelay, traced, afterSending, afterReading, rawOf,
    answeredLevels]

/-- `readWord(includeFraming)` inside ProgrammingMode (R221). -/
theorem exec_readWord_inside {s : State} (h : s.session.inProgrammingMode = true) (f : Bool) (ig : BitVec 15) :
    exec (.readWord f ig) s = .next (concluded (readEvents (answeredLevels s)) true
      (if f then rawOf (answeredLevels s) else deframe (rawOf (answeredLevels s))) (afterReading s)) := by
  calc exec (.readWord f ig) s
    _ = .next (perform (readWordSteps f) s) := rfl
    _ = .next (reply (if f then .raw else .deframed) (traced (readEvents (answeredLevels s)) (afterReading s))) := by
      rw [readWordSteps, List.cons_append, List.cons_append, perform_guard_inside h]
      simp only [List.cons_append, List.nil_append, perform, perform_prims, TT, applyAll_issueCommand_traced,
        applyAll_readFrame]
    _ = _ := by
      cases f <;> simp [reply_eq_concluded, replyOk, replyData, concluded, traced, afterReading]

/-- Settles O26: both forms are answered with the same levels, and the unframed response is the framed one deframed. -/
theorem readWordFormsAgree : Obligations.ReadWordFormsAgree := fun ig ig' _ h =>
  ⟨_, _, exec_readWord_inside h true ig, exec_readWord_inside h false ig', rfl, rfl, rfl⟩

/-! ### The round trip -/

/-- Sampling the sixteen bits of a value in the order of the wire gives the value (R144). -/
theorem rawOf_lsbFirst (v : Word) : rawOf (lsbFirst 16 v) = v := by
  apply BitVec.eq_of_getLsbD_eq
  intro k hk
  rw [rawOf, getLsbD_foldl_insertSample _ _ (by simp) k hk]
  simp [lsbFirst, hk]

/-- Deframing undoes framing, but for the bits 15 and 14 that framing discards (R226). -/
theorem deframe_frame (w : Word) : deframe (frame w) = w &&& 0x3FFF#16 := by
  calc deframe (frame w)
    _ = shiftOne (frame w) &&& 0x3FFF#16 := rfl
    _ = w &&& 0x3FFF#16 := by rw [shiftOne_frame, BitVec.and_assoc, BitVec.and_self]

/-- Sixteen listed levels are the answers. -/
theorem answeredLevels_of_datIn {s : State} {levels : List Level} (hlen : levels.length = 16)
    (h : s.bench.datIn = levels) : answeredLevels s = levels := by
  simpa [answeredLevels, h, hlen] using takeLevels_append levels [] s.bench.samples

/-- The write's trace decodes to the six bits of its command and the sixteen of its frame (30_encoding R92). -/
theorem wireBits_writeEvents (w : Word) :
    wireBits false (writeEvents w) = (commandBits .loadDataPm ++ frameBits w).map .sent := by
  simp [writeEvents, CMD, wireBits_pulsesOut, wireBits]

/-- Settles O31: the written levels are the frame's bits in the order of the wire, sampling them gives the frame, and
deframing it the low fourteen bits. -/
theorem loopbackRoundTrip : Obligations.LoopbackRoundTrip := by
  intro w ig s h
  have hwrite := exec_writeWord_inside h w
  set t := concluded (writeEvents w) true 0x0000#16 (afterSending .loadDataPm s)
  have hread := exec_readWord_inside (s := { t with bench.datIn := frameBits w }) h false ig
  have hraw : rawOf (answeredLevels { t with bench.datIn := frameBits w }) = frame w := by
    rw [answeredLevels_of_datIn (frameBits_length w) rfl, ← lsbFirst_frame, rawOf_lsbFirst]
  refine ⟨t, _, writeEvents w, frameBits w, hwrite, rfl, ?_, frameBits_length w, hread, hraw, ?_⟩
  · rw [wireBits_writeEvents]
    rfl
  · rw [hraw]
    exact congrArg (answered true) (deframe_frame w)

end Sys2Proof.Machine

/-! PROOF (O30). The events of the guarded operations: no rail is written, and `readWord` alone turns a line
(45_programming_ops R227). -/

namespace Sys2Proof.Machine

open Safety (concluded CMD pulsesOut pulsesIn P Q isGuarded AtMode exec_guarded_atMode)

/-- A level on `CLK` or `DAT`, a sample or a wait: neither a rail nor a direction is written. -/
def onBus : Event → Bool
  | .wr .clk _ => true
  | .wr .dat _ => true
  | .rd _ => true
  | .dly _ => true
  | .wr .vdd _ => false
  | .wr .vpp _ => false
  | .dir _ _ => false

theorem onBus_pulsesOut (bits : List Level) : (pulsesOut bits).all onBus = true := by
  simp [pulsesOut, P, onBus]

theorem onBus_pulsesIn (levels : List Level) : (pulsesIn levels).all onBus = true := by
  simp [pulsesIn, Q, onBus]

theorem onBus_CMD (c : CmdSel) : (CMD c).all onBus = true := onBus_pulsesOut _

theorem onBus_writeEvents (w : Word) : (writeEvents w).all onBus = true := by
  simp [writeEvents, onBus_CMD, onBus_pulsesOut, onBus]

/-- Every event of an operation is on the bus, but for the directions of `DAT` that `readWord` writes (R227). -/
def BusEvents (i : Instr) (events : List Event) : Prop :=
  ∀ e ∈ events, onBus e = true ∨ (∃ f ig, i = .readWord f ig) ∧ ∃ d, e = .dir .dat d

theorem busEvents_of_onBus {i : Instr} {events : List Event} (h : events.all onBus = true) : BusEvents i events :=
  fun e he => .inl (List.all_eq_true.1 h e he)

theorem busEvents_append {i : Instr} {a b : List Event} (ha : BusEvents i a) (hb : BusEvents i b) :
    BusEvents i (a ++ b) :=
  fun e he => (List.mem_append.1 he).elim (ha e) (hb e)

theorem busEvents_dir (f : Bool) (ig : BitVec 15) (d : Dir) : BusEvents (.readWord f ig) [.dir .dat d] :=
  fun _ he => .inr ⟨⟨f, ig, rfl⟩, d, List.mem_singleton.1 he⟩

theorem busEvents_readEvents (f : Bool) (ig : BitVec 15) (levels : List Level) :
    BusEvents (.readWord f ig) (readEvents levels) :=
  busEvents_append (busEvents_append (busEvents_append (busEvents_of_onBus (onBus_CMD _))
    (busEvents_append (b := [.dly 5]) (busEvents_dir f ig .inp) (busEvents_of_onBus rfl)))
    (busEvents_of_onBus (onBus_pulsesIn levels))) (busEvents_dir f ig .out)

section
variable {s : State} (h : s.session.inProgrammingMode = true)
include h

/-- `incAddress()` inside ProgrammingMode, whatever `location` holds (R211). -/
theorem exec_incAddress_inside (ig : BitVec 16) :
    exec (.incAddress ig) s = .next (concluded (CMD .incAddr ++ [.dly 5]) true 0x0000#16
      (advanceLocation (afterSending .incAddr s))) := by
  have hadvance : ∀ ev u, applyPrim .advanceLocation (traced ev u) = traced ev (advanceLocation u) := fun _ _ => rfl
  calc exec (.incAddress ig) s
    _ = .next (perform incAddressSteps s) := rfl
    _ = _ := by
      rw [incAddressSteps, perform_guard_inside h]
      simp only [perform, applyAll_issueCommand_traced, applyPrim_dly_afterSending, hadvance, reply_done_traced, TT]

/-- Inside ProgrammingMode each guarded operation succeeds, with bus events only (R220, R227). -/
theorem exec_guarded_inside {i : Instr} (hi : isGuarded i = true) :
    ∃ events data u, exec i s = .next (concluded events true data u) ∧ u.bench.trace = s.bench.trace ∧
      BusEvents i events := by
  cases i <;> cases hi
  case incAddress ig =>
    exact ⟨_, _, _, exec_incAddress_inside h ig, rfl, busEvents_of_onBus (by simp [onBus_CMD, onBus])⟩
  case readWord f ig => exact ⟨_, _, _, exec_readWord_inside h f ig, rfl, busEvents_readEvents f ig _⟩
  case writeWord w => exact ⟨_, _, _, exec_writeWord_inside h w, rfl, busEvents_of_onBus (onBus_writeEvents w)⟩
  case burn ig => exact ⟨_, _, _, exec_burn_inside h ig, rfl, busEvents_of_onBus (by simp [onBus_CMD, onBus])⟩
  case erase ig => exact ⟨_, _, _, exec_erase_inside h ig, rfl, busEvents_of_onBus (by simp [onBus_CMD, onBus])⟩

end

/-- Settles O30: the lines are those of the mode, which the operation keeps, and its events are bus events. -/
theorem programmingOperationsRestoreTheLines : Obligations.ProgrammingOperationsRestoreTheLines := by
  intro i s h hi
  obtain ⟨events, data, u, hexec, htrace, hbus⟩ := exec_guarded_inside h.inProgrammingMode hi
  obtain ⟨t, hexec', hmode⟩ := exec_guarded_atMode h hi
  obtain rfl : concluded events true data u = t := by simpa [hexec] using hexec'
  refine ⟨_, events, hexec, hmode.lines_programmingMode.trans h.lines_programmingMode.symm, ?_,
    fun v => ⟨fun hmem => ?_, fun hmem => ?_⟩, fun hread l d hmem => ?_, rfl⟩
  · exact congrArg (· ++ events) htrace
  · simpa [onBus] using hbus _ hmem
  · simpa [onBus] using hbus _ hmem
  · simpa [onBus, hread] using hbus _ hmem

end Sys2Proof.Machine

/-! PROOF (O13). The failure of the five guarded operations, and the answer of the four transitions (60_exceptions R251,
R253). -/

namespace Sys2Proof.Machine

open Safety (answered isTransition exec_of_hostSteps)

/-- Every way out of a step list is `return ok(0x0000)`, and its last item is such a return. -/
def returnsDone : List Item → Bool
  | [] => false
  | .prim _ :: rest => returnsDone rest
  | .command _ :: rest => returnsDone rest
  | .whenDo _ _ :: rest => returnsDone rest
  | .returnWhen _ r :: rest => r == .done && returnsDone rest
  | .ret r :: _ => r == .done

theorem reply_done_response (s : State) : (reply .done s).response = answered true 0x0000#16 := rfl

/-- Such a list is answered with success and no data, whatever its tests find and its statements do (R105). -/
theorem perform_response_of_returnsDone {items : List Item} (h : returnsDone items = true) (s : State) :
    (perform items s).response = answered true 0x0000#16 := by
  induction items generalizing s with
  | nil => cases h
  | cons item rest ih =>
    cases item with
    | prim p => exact ih h _
    | command c => exact ih h _
    | whenDo c body => exact ih h _
    | returnWhen c r =>
      obtain ⟨hr, hrest⟩ : r = .done ∧ returnsDone rest = true := by simpa [returnsDone] using h
      subst hr
      unfold perform
      split
      · exact reply_done_response s
      · exact ih hrest s
    | ret r =>
      obtain rfl : r = .done := by simpa [returnsDone] using h
      exact reply_done_response s

/-- No transition has a failing return (R183, R184, R185, R188). -/
theorem hostSteps_of_transition {i : Instr} (hi : isTransition i = true) :
    ∃ items, hostSteps i = some items ∧ returnsDone items = true := by
  cases i <;> cases hi
  case setPowerTrue => exact ⟨setPowerTrueSteps, rfl, rfl⟩
  case setPowerFalse => exact ⟨setPowerFalseSteps, rfl, rfl⟩
  case setProgrammingModeTrue => exact ⟨setProgrammingModeTrueSteps, rfl, rfl⟩
  case setProgrammingModeFalse => exact ⟨setProgrammingModeFalseSteps, rfl, rfl⟩

/-- Settles O13: the guarded operations fail at their guard; a transition's step list returns success only. -/
theorem invalidStateCallChangesNothing : Obligations.InvalidStateCallChangesNothing := by
  refine ⟨fun i s => exec_guarded_outside, fun i s hi => ?_⟩
  obtain ⟨items, hsteps, hdone⟩ := hostSteps_of_transition hi
  exact ⟨perform items s, exec_of_hostSteps hsteps s, perform_response_of_returnsDone hdone s⟩

end Sys2Proof.Machine

/-! PROOF (O1, O2, O3, O4, O5). The decoder and the encoder (30_encoding R91, R99 to R104, R108, R161): what the decoder
reads from a request word put together from its fields, and the rows of the opcode table. -/

namespace Sys2Proof

/-! ### The request decoder, one equation an assigned operation code -/

section
variable (arg : Word)

theorem decodeRequest_op1 : decodeRequest (1#4 ++ arg) =
    .ok (if argFlag arg then .setPowerTrue (argIgnored arg) else .setPowerFalse (argIgnored arg)) := by
  simp [decodeRequest]

theorem decodeRequest_op2 : decodeRequest (2#4 ++ arg) =
    .ok (if argFlag arg then .setProgrammingModeTrue (argIgnored arg)
      else .setProgrammingModeFalse (argIgnored arg)) := by
  simp [decodeRequest]

theorem decodeRequest_op3 : decodeRequest (3#4 ++ arg) = .ok (.incAddress arg) := by
  simp [decodeRequest]

theorem decodeRequest_op4 : decodeRequest (4#4 ++ arg) = .ok (.readWord (argFlag arg) (argIgnored arg)) := by
  simp [decodeRequest]

theorem decodeRequest_op5 : decodeRequest (5#4 ++ arg) = .ok (.writeWord arg) := by
  simp [decodeRequest]

theorem decodeRequest_op6 : decodeRequest (6#4 ++ arg) = .ok (.burn arg) := by
  simp [decodeRequest]

theorem decodeRequest_op7 : decodeRequest (7#4 ++ arg) = .ok (.erase arg) := by
  simp [decodeRequest]

end

/-- A request word with an assigned code is one of seven codes before its argument (R100, R102). -/
theorem request_cases_of_assigned {r : BitVec 20} (h : requestAssigned r = true) :
    ∃ arg : Word, r = 1#4 ++ arg ∨ r = 2#4 ++ arg ∨ r = 3#4 ++ arg ∨ r = 4#4 ++ arg ∨ r = 5#4 ++ arg ∨
      r = 6#4 ++ arg ∨ r = 7#4 ++ arg := by
  obtain ⟨hlo, hhi⟩ := of_decide_eq_true h
  rw [← requestOp_toNat] at hlo hhi
  have hop : requestOp r = 1#4 ∨ requestOp r = 2#4 ∨ requestOp r = 3#4 ∨ requestOp r = 4#4 ∨ requestOp r = 5#4 ∨
      requestOp r = 6#4 ∨ requestOp r = 7#4 := by
    bv_omega
  refine ⟨requestArg r, ?_⟩
  rw [← request_eq_append r, requestArg_append]
  obtain hop | hop | hop | hop | hop | hop | hop := hop <;> simp [hop]

/-- A word whose argument carries a flag is its code, its ignored bits and its flag (R103). -/
theorem append_argIgnored_argFlag (op : BitVec 4) (arg : Word) :
    (op ++ argIgnored arg ++ BitVec.ofBool (argFlag arg) : BitVec 20) = op ++ arg := by
  rw [request_assoc, arg_eq_append]

theorem decodeCommand_opcodeOf (c : CmdSel) : decodeCommand (opcodeOf c) = .ok (commandInstr c) := by
  simp only [decodeCommand, commandOf_opcodeOf]

/-- Settles O1: a request by the equation of its code, a wire command by the opcode multiplexer. -/
theorem decodeOfEncodeIsIdentity : Obligations.DecodeOfEncodeIsIdentity := by
  intro i
  cases i with
  | setPowerTrue ig => simp [encode, decode, request_assoc, decodeRequest_op1]
  | setPowerFalse ig => simp [encode, decode, request_assoc, decodeRequest_op1]
  | setProgrammingModeTrue ig => simp [encode, decode, request_assoc, decodeRequest_op2]
  | setProgrammingModeFalse ig => simp [encode, decode, request_assoc, decodeRequest_op2]
  | incAddress ig => exact decodeRequest_op3 ig
  | readWord f ig => simp [encode, decode, request_assoc, decodeRequest_op4]
  | writeWord w => exact decodeRequest_op5 w
  | burn ig => exact decodeRequest_op6 ig
  | erase ig => exact decodeRequest_op7 ig
  | loadDataPm => exact decodeCommand_opcodeOf .loadDataPm
  | readDataPm => exact decodeCommand_opcodeOf .readDataPm
  | incAddr => exact decodeCommand_opcodeOf .incAddr
  | beginProg => exact decodeCommand_opcodeOf .beginProg
  | bulkErase => exact decodeCommand_opcodeOf .bulkErase
  | endProg => exact decodeCommand_opcodeOf .endProg

/-! ### The words of one instruction -/

/-- Every assigned request word is what the encoder writes for some instruction (R100 to R103). -/
theorem exists_encode_of_requestAssigned {r : BitVec 20} (h : requestAssigned r = true) :
    ∃ i, encode i = .request r := by
  obtain ⟨arg, rfl | rfl | rfl | rfl | rfl | rfl | rfl⟩ := request_cases_of_assigned h
  · cases hf : argFlag arg
    · exact ⟨.setPowerFalse (argIgnored arg), by simp [encode, ← append_argIgnored_argFlag _ arg, hf]⟩
    · exact ⟨.setPowerTrue (argIgnored arg), by simp [encode, ← append_argIgnored_argFlag _ arg, hf]⟩
  · cases hf : argFlag arg
    · exact ⟨.setProgrammingModeFalse (argIgnored arg), by simp [encode, ← append_argIgnored_argFlag _ arg, hf]⟩
    · exact ⟨.setProgrammingModeTrue (argIgnored arg), by simp [encode, ← append_argIgnored_argFlag _ arg, hf]⟩
  · exact ⟨.incAddress arg, rfl⟩
  · exact ⟨.readWord (argFlag arg) (argIgnored arg), by rw [encode, append_argIgnored_argFlag]⟩
  · exact ⟨.writeWord arg, rfl⟩
  · exact ⟨.burn arg, rfl⟩
  · exact ⟨.erase arg, rfl⟩

/-- The encoder writes the opcode of a wire command (R161). -/
theorem encode_commandInstr (c : CmdSel) : encode (commandInstr c) = .command (opcodeOf c) := by
  cases c <;> rfl

/-- The six opcodes are the selections of the multiplexer (R99, R161). -/
theorem commandAssigned_iff (c : BitVec 6) : commandAssigned c = true ↔ ∃ sel, c = opcodeOf sel := by
  constructor
  · intro h
    simp only [List.contains_iff_mem, List.mem_cons, List.not_mem_nil, or_false] at h
    obtain rfl | rfl | rfl | rfl | rfl | rfl := h
    · exact ⟨.loadDataPm, rfl⟩
    · exact ⟨.readDataPm, rfl⟩
    · exact ⟨.incAddr, rfl⟩
    · exact ⟨.beginProg, rfl⟩
    · exact ⟨.bulkErase, rfl⟩
    · exact ⟨.endProg, rfl⟩
  · rintro ⟨sel, rfl⟩
    cases sel <;> rfl

/-- A well-formed word is what the encoder writes for some instruction. -/
theorem exists_encode_of_wellFormed {raw : Raw} (h : raw.wellFormed = true) : ∃ i, encode i = raw := by
  cases raw with
  | request r => exact exists_encode_of_requestAssigned h
  | command c =>
    obtain ⟨sel, rfl⟩ := (commandAssigned_iff c).1 h
    exact ⟨_, encode_commandInstr sel⟩

theorem commandOf_eq_none {c : BitVec 6} (h : commandAssigned c = false) : commandOf c = none := by
  revert c
  decide

/-- The command decoder rejects every other value, by name (R99). -/
theorem decodeCommand_of_unassigned {c : BitVec 6} (h : commandAssigned c = false) :
    decodeCommand c = .error (.unassignedCommand c) := by
  simp only [decodeCommand, commandOf_eq_none h]

/-- A word that decodes is well-formed: every other is rejected. -/
theorem wellFormed_of_decode {raw : Raw} {i : Instr} (h : decode raw = .ok i) : raw.wellFormed = true := by
  by_contra hwf
  rw [Bool.not_eq_true] at hwf
  cases raw with
  | request r => simp [decode, decodeRequest_of_reserved hwf] at h
  | command c => simp [decode, decodeCommand_of_unassigned hwf] at h

theorem wellFormed_iff_decode (raw : Raw) : raw.wellFormed = true ↔ ∃ i, decode raw = .ok i := by
  refine ⟨fun h => ?_, fun ⟨_, h⟩ => wellFormed_of_decode h⟩
  obtain ⟨i, rfl⟩ := exists_encode_of_wellFormed h
  exact ⟨i, decodeOfEncodeIsIdentity i⟩

/-- Settles O2: the word is what the encoder writes for an instruction, which by O1 is the decoded one. -/
theorem encodeOfDecodeRestoresTheWord : Obligations.EncodeOfDecodeRestoresTheWord := by
  intro raw i h
  obtain ⟨j, rfl⟩ := exists_encode_of_wellFormed (wellFormed_of_decode h)
  obtain rfl : j = i := by simpa [decodeOfEncodeIsIdentity j] using h
  rfl

/-- A word that is rejected is not well-formed. -/
theorem not_wellFormed_of_error {raw : Raw} {e : DecodeError} (h : decode raw = .error e) :
    raw.wellFormed = false := by
  by_contra hwf
  obtain ⟨i, hi⟩ := (wellFormed_iff_decode raw).1 (by simpa using hwf)
  simp [hi] at h

/-- Settles O3: what is not assigned is rejected by name, and what is assigned is decoded. -/
theorem decoderRejectsExactlyReservedWords : Obligations.DecoderRejectsExactlyReservedWords :=
  ⟨fun _ => ⟨decodeRequest_of_reserved, not_wellFormed_of_error⟩,
   fun _ => ⟨decodeCommand_of_unassigned, not_wellFormed_of_error⟩, wellFormed_iff_decode⟩

/-- Settles O5: the six words are read off the decoder. -/
theorem specWordsDecodeToTheirInstructions : Obligations.SpecWordsDecodeToTheirInstructions := by
  refine ⟨?_, ?_, ?_, ?_, ?_, ?_⟩ <;> decide

/-! ### The rows of the opcode table -/

/-- A request word as a number: its code above its argument (R100). -/
theorem toNat_request (op : BitVec 4) (arg : Word) :
    BitVec.toNat (w := 20) (op ++ arg) = op.toNat * 65536 + arg.toNat := by
  rw [← Nat.shiftLeft_eq op.toNat 16, Nat.shiftLeft_add_eq_or_of_lt arg.isLt]
  exact BitVec.toNat_append op arg

/-- What a mask of the whole operation code and of `m` in the argument leaves of a request word (R108). -/
theorem request_and_mask (r : BitVec 20) (m : Word) :
    r.toNat &&& BitVec.toNat (w := 20) (0xF#4 ++ m) = (requestOp r).toNat * 65536 + (requestArg r &&& m).toNat := by
  have hop : requestOp r &&& 0xF#4 = requestOp r := BitVec.and_allOnes
  calc r.toNat &&& BitVec.toNat (w := 20) (0xF#4 ++ m)
    _ = (r &&& (0xF#4 ++ m)).toNat := (BitVec.toNat_and ..).symm
    _ = ((requestOp r ++ requestArg r) &&& (0xF#4 ++ m)).toNat := by rw [request_eq_append]
    _ = BitVec.toNat (w := 20) ((requestOp r &&& 0xF#4) ++ (requestArg r &&& m)) := by rw [← BitVec.and_append]
    _ = _ := by rw [toNat_request, hop]

/-- The mask of the rows without a flag leaves the code. -/
theorem request_and_opMask (r : BitVec 20) : r.toNat &&& 0xF0000 = (requestOp r).toNat * 65536 := by
  simpa using request_and_mask r 0#16

/-- The mask of the rows with a flag leaves the code and the flag (R103). -/
theorem request_and_flagMask (r : BitVec 20) :
    r.toNat &&& 0xF0001 = (requestOp r).toNat * 65536 + (argFlag (requestArg r)).toNat := by
  have hflag : (requestArg r &&& 1#16).toNat = (argFlag (requestArg r)).toNat := by
    rw [BitVec.toNat_and, argFlag, BitVec.getLsbD, Nat.toNat_testBit, pow_zero, Nat.div_one]
    exact Nat.and_one_is_mod _
  rw [← hflag]
  exact request_and_mask r 1#16

/-- A word selects the row of the instruction it is encoded from (R108). -/
theorem selectedBy_encode (i : Instr) : (tableRow i).selectedBy (encode i) = true := by
  cases i <;>
    simp [tableRow, OpcodeRow.selectedBy, encode, request_and_opMask, request_and_flagMask, request_assoc, opcodeOf]

/-- A word that selects the row of a request is of the row's code (R108). -/
theorem request_eq_of_code {r : BitVec 20} {op : BitVec 4} (h : r.toNat &&& 0xF0000 = op.toNat * 65536) :
    r = op ++ requestArg r := by
  rw [request_and_opMask] at h
  obtain rfl : requestOp r = op := BitVec.eq_of_toNat_eq (by omega)
  exact (request_eq_append r).symm

/-- A word that selects the row of a request with a flag is of the row's code and has its flag (R103, R108). -/
theorem request_eq_of_code_flag {r : BitVec 20} {op : BitVec 4} {f : Bool}
    (h : r.toNat &&& 0xF0001 = op.toNat * 65536 + f.toNat) :
    r = op ++ requestArg r ∧ argFlag (requestArg r) = f := by
  rw [request_and_flagMask] at h
  have hlt := Bool.toNat_lt (argFlag (requestArg r))
  have hlt' := Bool.toNat_lt f
  obtain rfl : requestOp r = op := BitVec.eq_of_toNat_eq (by omega)
  have hf : (argFlag (requestArg r)).toNat = f.toNat := by omega
  exact ⟨(request_eq_append r).symm, by revert hf; cases argFlag (requestArg r) <;> cases f <;> decide⟩

/-- A request that selects a row decodes to an instruction of that row (R108). -/
theorem decodeRequest_of_selectedBy {r : BitVec 20} {j : Instr}
    (h : (tableRow j).selectedBy (.request r) = true) : ∃ i, decodeRequest r = .ok i ∧ tableRow i = tableRow j := by
  obtain ⟨hwidth, hcode⟩ : (tableRow j).width = 20 ∧ r.toNat &&& (tableRow j).mask = (tableRow j).pattern := by
    simpa [OpcodeRow.selectedBy] using h
  cases j
  case setPowerTrue =>
    obtain ⟨hr, hf⟩ := request_eq_of_code_flag (op := 1#4) (f := true) hcode
    exact ⟨_, (congrArg decodeRequest hr).trans (decodeRequest_op1 _), by rw [hf]; rfl⟩
  case setPowerFalse =>
    obtain ⟨hr, hf⟩ := request_eq_of_code_flag (op := 1#4) (f := false) hcode
    exact ⟨_, (congrArg decodeRequest hr).trans (decodeRequest_op1 _), by rw [hf]; rfl⟩
  case setProgrammingModeTrue =>
    obtain ⟨hr, hf⟩ := request_eq_of_code_flag (op := 2#4) (f := true) hcode
    exact ⟨_, (congrArg decodeRequest hr).trans (decodeRequest_op2 _), by rw [hf]; rfl⟩
  case setProgrammingModeFalse =>
    obtain ⟨hr, hf⟩ := request_eq_of_code_flag (op := 2#4) (f := false) hcode
    exact ⟨_, (congrArg decodeRequest hr).trans (decodeRequest_op2 _), by rw [hf]; rfl⟩
  case incAddress =>
    exact ⟨_, (congrArg decodeRequest (request_eq_of_code (op := 3#4) hcode)).trans (decodeRequest_op3 _), rfl⟩
  case readWord =>
    exact ⟨_, (congrArg decodeRequest (request_eq_of_code (op := 4#4) hcode)).trans (decodeRequest_op4 _), rfl⟩
  case writeWord =>
    exact ⟨_, (congrArg decodeRequest (request_eq_of_code (op := 5#4) hcode)).trans (decodeRequest_op5 _), rfl⟩
  case burn =>
    exact ⟨_, (congrArg decodeRequest (request_eq_of_code (op := 6#4) hcode)).trans (decodeRequest_op6 _), rfl⟩
  case erase =>
    exact ⟨_, (congrArg decodeRequest (request_eq_of_code (op := 7#4) hcode)).trans (decodeRequest_op7 _), rfl⟩
  all_goals cases hwidth

/-- A wire command's row is its opcode under the full mask (R108, R161). -/
theorem tableRow_commandInstr (c : CmdSel) : tableRow (commandInstr c) = ⟨6, (opcodeOf c).toNat, 63⟩ := by
  cases c <;> rfl

/-- A row on the command channel is the row of a wire command. -/
theorem exists_commandInstr_of_width {j : Instr} (h : (tableRow j).width = 6) : ∃ c, j = commandInstr c := by
  cases j <;> cases h
  · exact ⟨.loadDataPm, rfl⟩
  · exact ⟨.readDataPm, rfl⟩
  · exact ⟨.incAddr, rfl⟩
  · exact ⟨.beginProg, rfl⟩
  · exact ⟨.bulkErase, rfl⟩
  · exact ⟨.endProg, rfl⟩

/-- An opcode that selects a row decodes to the instruction of that row (R108). -/
theorem decodeCommand_of_selectedBy {c : BitVec 6} {j : Instr}
    (h : (tableRow j).selectedBy (.command c) = true) : decodeCommand c = .ok j := by
  have hmask : c.toNat &&& 63 = c.toNat := Nat.and_two_pow_sub_one_of_lt_two_pow (n := 6) c.isLt
  obtain ⟨hwidth, hcode⟩ : (tableRow j).width = 6 ∧ c.toNat &&& (tableRow j).mask = (tableRow j).pattern := by
    simpa [OpcodeRow.selectedBy] using h
  obtain ⟨sel, rfl⟩ := exists_commandInstr_of_width hwidth
  rw [tableRow_commandInstr, hmask] at hcode
  rw [BitVec.eq_of_toNat_eq hcode, decodeCommand_opcodeOf]

/-- A word that selects a row decodes to an instruction of that row (R108). -/
theorem decode_of_selectedBy {raw : Raw} {j : Instr} (h : (tableRow j).selectedBy raw = true) :
    ∃ i, decode raw = .ok i ∧ tableRow i = tableRow j := by
  cases raw with
  | request r => exact decodeRequest_of_selectedBy h
  | command c => exact ⟨j, decodeCommand_of_selectedBy h, rfl⟩

/-- Settles O4: the word is the instruction's own encoding, and whatever row a word selects is the row of what it decodes
to. -/
theorem decodedWordSelectsItsTableRowAlone : Obligations.DecodedWordSelectsItsTableRowAlone := by
  intro raw i h
  obtain rfl := encodeOfDecodeRestoresTheWord raw i h
  refine ⟨selectedBy_encode i, fun j hj => ?_⟩
  obtain ⟨k, hk, hrow⟩ := decode_of_selectedBy hj
  obtain rfl : i = k := by simpa [h] using hk
  exact hrow.symm

end Sys2Proof

/-! PROOF (O6, O7, O8, O9, O11, O12). The step of an idle and of a busy engine (10_state R40, 20_memory R72, 30_encoding
R101, R103, R104), and that it always answers. -/

namespace Sys2Proof.Machine

open Safety (exec_of_hostSteps)

/-! ### What the next step takes -/

theorem step_of_fetch_run {s t : State} {i : Instr} (h : fetch s = .run i t) : step s = exec i t := by
  simp only [step, h]

theorem fetch_of_busy {s : State} (h : s.sequencer.busy = true) : fetch s = fetchSeq s := by
  simp [fetch, h]

/-- A request that an instruction stands for is taken from the port and accepted (R101). -/
theorem fetchRequest_of_decode_ok {s : State} {r : BitVec 20} {rest : List (BitVec 20)} {i : Instr}
    (hreq : s.bench.requests = r :: rest) (hdec : decodeRequest r = .ok i) :
    fetchRequest s = .run i (accept { s with bench.requests := rest }) := by
  simp only [fetchRequest, hreq, hdec]

theorem fetchRequest_of_no_request {s : State} (hreq : s.bench.requests = []) :
    fetchRequest s = .done (idleCycle s) := by
  simp only [fetchRequest, hreq]

theorem fetchSeq_command {s : State} {c : CmdSel} {rest : List Item} (hseq : s.sequencer.seq = .command c :: rest) :
    fetchSeq s = .run (commandInstr c) (setSeq rest s) := by
  simp only [fetchSeq, hseq]

/-- Settles O7: the request is fetched, and what is fetched is run. -/
theorem stepRunsTheDecodedRequest : Obligations.StepRunsTheDecodedRequest := fun _ _ _ _ hidle hreq hdec =>
  step_of_fetch_run <| (fetch_of_idle hidle).trans <| fetchRequest_of_decode_ok hreq hdec

/-- A request that no instruction stands for is answered with the failure reply (R104). -/
theorem step_of_decode_error {s : State} {r : BitVec 20} {rest : List (BitVec 20)} {e : DecodeError}
    (hidle : s.sequencer.busy = false) (hreq : s.bench.requests = r :: rest) (hdec : decodeRequest r = .error e) :
    step s = .next (reply .fail (accept { s with bench.requests := rest })) :=
  step_of_fetch_done <| (fetch_of_idle hidle).trans <| fetchRequest_of_decode_error hreq hdec

/-- Settles O8: the call is fetched as the wire command that its opcode decodes to. -/
theorem busyStepRunsTheCalledWireCommand : Obligations.BusyStepRunsTheCalledWireCommand := by
  intro s c rest i hbusy hseq hdec
  obtain rfl : commandInstr c = i := by simpa [decode, decodeCommand_opcodeOf] using hdec
  exact step_of_fetch_run <| (fetch_of_busy hbusy).trans <| fetchSeq_command hseq

/-- Settles O11: nothing is fetched but the idle cycle. -/
theorem idleEngineWaitsForARequest : Obligations.IdleEngineWaitsForARequest := fun _ hidle hreq =>
  step_of_fetch_done <| (fetch_of_idle hidle).trans <| fetchRequest_of_no_request hreq

/-! ### The placement of a table word -/

/-- An opcode that decodes to an instruction is placed as the call of it (log entry 7). -/
theorem placeRaw_opcodeOf (c : CmdSel) (s : State) :
    placeRaw (.command (opcodeOf c)) s = { s with sequencer := { busy := true, seq := [.command c] } } := by
  simp only [placeRaw, commandOf_opcodeOf]

/-- Settles O9: a request word is placed as the next request of an idle engine, an opcode as the call at the head of the
step list of a busy one; either is fetched. -/
theorem stepRunsThePlacedTableWord : Obligations.StepRunsThePlacedTableWord := by
  intro s nbits w i h
  obtain ⟨raw, hraw, hdec⟩ : ∃ raw, rawOfTableWord nbits w = some raw ∧ decode raw = .ok i := by
    unfold decodeTableWord at h
    split at h
    · next raw hraw =>
      cases hdec : decode raw with
      | error e => simp [hdec, Except.toOption] at h
      | ok j => exact ⟨raw, hraw, by simpa [hdec, Except.toOption] using h⟩
    · cases h
  simp only [State.withFetchWord, hraw]
  cases raw with
  | request r => exact ⟨_, stepRunsTheDecodedRequest (placeRaw (.request r) s) r s.bench.requests i rfl rfl hdec,
      rfl, rfl, rfl, rfl, rfl, rfl, rfl, rfl⟩
  | command c =>
    obtain ⟨sel, rfl⟩ := (commandAssigned_iff c).1 (wellFormed_of_decode hdec)
    rw [placeRaw_opcodeOf]
    exact ⟨_, busyStepRunsTheCalledWireCommand _ sel [] i rfl rfl hdec, rfl, rfl, rfl, rfl, rfl, rfl, rfl, rfl⟩

/-! ### Every step answers -/

/-- An instruction is a host operation or a wire command (R107). -/
theorem hostSteps_or_command (i : Instr) : (∃ items, hostSteps i = some items) ∨ ∃ c, i = commandInstr c := by
  cases i
  case loadDataPm => exact .inr ⟨.loadDataPm, rfl⟩
  case readDataPm => exact .inr ⟨.readDataPm, rfl⟩
  case incAddr => exact .inr ⟨.incAddr, rfl⟩
  case beginProg => exact .inr ⟨.beginProg, rfl⟩
  case bulkErase => exact .inr ⟨.bulkErase, rfl⟩
  case endProg => exact .inr ⟨.endProg, rfl⟩
  all_goals exact .inl ⟨_, rfl⟩

/-- A wire command is the call of `issueCommand` of its opcode (R160). -/
theorem exec_commandInstr (c : CmdSel) (s : State) :
    exec (commandInstr c) s = .next (applyAll (issueCommand c) s) := by
  cases c <;> rfl

theorem exec_answers (i : Instr) (s : State) : ∃ t, exec i s = .next t := by
  obtain ⟨items, h⟩ | ⟨c, rfl⟩ := hostSteps_or_command i
  · exact ⟨_, exec_of_hostSteps h s⟩
  · exact ⟨_, exec_commandInstr c s⟩

/-- Settles O12: a step takes a state or runs an instruction, and an instruction answers. -/
theorem nothingEverFaultsOrIsRefused : Obligations.NothingEverFaultsOrIsRefused := by
  refine ⟨fun s => ?_, exec_answers⟩
  cases h : fetch s with
  | run i t => exact step_of_fetch_run h ▸ exec_answers i t
  | done t => exact ⟨t, step_of_fetch_done h⟩

/-! ### The ignored bits of a request -/

/-- Two request words that make an idle engine do the same: both rejected, or decoded to instructions of one meaning. -/
def SameMeaning (r r' : BitVec 20) : Prop :=
  ((∃ e, decodeRequest r = .error e) ∧ ∃ e, decodeRequest r' = .error e) ∨
    ∃ i i', decodeRequest r = .ok i ∧ decodeRequest r' = .ok i' ∧ ∀ s, exec i s = exec i' s

/-- The flag of an argument is the lowest bit of the word (R103). -/
theorem argFlag_requestArg (r : BitVec 20) : argFlag (requestArg r) = r.getLsbD 0 := by
  simp [argFlag, requestArg]

/-- Words that agree in their code, in the flag where the code reads it, and in the argument of `writeWord`. -/
theorem sameMeaning_of_agree {r r' : BitVec 20} (hop : requestOp r = requestOp r')
    (hflag : requestOp r = 1#4 ∨ requestOp r = 2#4 ∨ requestOp r = 4#4 → r.getLsbD 0 = r'.getLsbD 0)
    (harg : requestOp r = 5#4 → requestArg r = requestArg r') : SameMeaning r r' := by
  simp only [← argFlag_requestArg] at hflag
  obtain ⟨op, arg', rfl⟩ : ∃ (op : BitVec 4) (arg' : Word), r' = op ++ arg' := ⟨_, _, (request_eq_append r').symm⟩
  rw [requestOp_append] at hop
  subst hop
  rw [requestArg_append] at hflag harg
  cases hr : requestAssigned r with
  | false =>
    have hr' : requestAssigned (requestOp r ++ arg') = false := by
      rw [requestAssigned, ← requestOp_toNat] at hr ⊢
      rwa [requestOp_append]
    exact .inl ⟨⟨_, decodeRequest_of_reserved hr⟩, _, decodeRequest_of_reserved hr'⟩
  | true =>
    obtain ⟨arg, rfl | rfl | rfl | rfl | rfl | rfl | rfl⟩ := request_cases_of_assigned hr <;>
      rw [requestOp_append, requestArg_append] at hflag harg <;> rw [requestOp_append] <;> right
    · refine ⟨_, _, decodeRequest_op1 arg, decodeRequest_op1 arg', fun s => ?_⟩
      rw [hflag (.inl rfl)]
      cases argFlag arg' <;> rfl
    · refine ⟨_, _, decodeRequest_op2 arg, decodeRequest_op2 arg', fun s => ?_⟩
      rw [hflag (.inr (.inl rfl))]
      cases argFlag arg' <;> rfl
    · exact ⟨_, _, decodeRequest_op3 arg, decodeRequest_op3 arg', fun s => rfl⟩
    · refine ⟨_, _, decodeRequest_op4 arg, decodeRequest_op4 arg', fun s => ?_⟩
      rw [hflag (.inr (.inr rfl))]
      rfl
    · exact ⟨_, _, decodeRequest_op5 arg, decodeRequest_op5 arg', fun s => by rw [harg rfl]⟩
    · exact ⟨_, _, decodeRequest_op6 arg, decodeRequest_op6 arg', fun s => rfl⟩
    · exact ⟨_, _, decodeRequest_op7 arg, decodeRequest_op7 arg', fun s => rfl⟩

/-- Settles O6: words that differ in ignored bits only are both answered with the failure or both run with one meaning. -/
theorem ignoredRequestBitsHaveNoEffect : Obligations.IgnoredRequestBitsHaveNoEffect := by
  intro s r r' rest hidle hop hflag harg
  have hstep : ∀ {q i}, decodeRequest q = .ok i → step { s with bench.requests := q :: rest } =
      exec i (accept { s with bench.requests := rest }) := fun h => stepRunsTheDecodedRequest _ _ _ _ hidle rfl h
  have hfail : ∀ {q e}, decodeRequest q = .error e → step { s with bench.requests := q :: rest } =
      .next (reply .fail (accept { s with bench.requests := rest })) := fun h =>
    step_of_decode_error hidle rfl h
  obtain ⟨⟨_, h⟩, _, h'⟩ | ⟨i, i', h, h', hexec⟩ := sameMeaning_of_agree hop hflag harg
  · rw [hfail h, hfail h']
  · rw [hstep h, hstep h', hexec]

end Sys2Proof.Machine

/-! PROOF (O14, O15, O16, O17). The four transitions of the power/mode state machine from any state (43_power_mode R183
to R188): their step lists run item by item, each procedure by its law. -/

namespace Sys2Proof.Machine

open Safety (concluded X U D E)

/-! ### The procedures with their traces -/

/-- `s` with the rails low, the lines released and the flags of `Unpowered`, `location` kept (R187). -/
def exited (s : State) : State :=
  { s with
    session.hasPower := false
    session.inProgrammingMode := false
    lines := Lines.reset
    datapath.dlycnt := 0#15 }

/-- `s` energized for programming (R186). -/
def entered (s : State) : State :=
  { s with
    session.hasPower := true
    session.inProgrammingMode := true
    session.location := -1
    lines := { outVDD := true, outVPP := true, dirCLK := .out, outCLK := false, dirDAT := .out, outDAT := false }
    datapath.dlycnt := 0#15 }

/-- `s` with the main rail and its flag at `v`, after the settle time (R183, R184). -/
def mainRail (v : Bool) (s : State) : State :=
  { s with session.hasPower := v, lines.outVDD := v, datapath.dlycnt := 0#15 }

section
variable (s : State) (ev : List Event)

@[simp] theorem traced_session : (traced ev s).session = s.session := rfl
@[simp] theorem traced_params : (traced ev s).params = s.params := rfl

theorem entered_traced : entered (traced ev s) = traced ev (entered s) := rfl
theorem mainRail_traced (v : Bool) : mainRail v (traced ev s) = traced ev (mainRail v s) := rfl

/-- Entry leaves nothing of a powering down before it (R185, R186). -/
theorem entered_mainRail (v : Bool) : entered (mainRail v s) = entered s := rfl

theorem applyAll_exitPM_traced : applyAll exitPM s = traced X (exited s) := applyAll_exitPM s
theorem applyAll_enterPM_traced : applyAll enterPM s = traced E (entered s) := applyAll_enterPM s
theorem applyAll_powerUp_traced : applyAll powerUp s = traced U (mainRail true s) := applyAll_powerUp s
theorem applyAll_powerDown_traced : applyAll powerDown s = traced D (mainRail false s) := applyAll_powerDown s

/-- A reply without data, where nothing has been performed. -/
theorem reply_done : reply .done s = concluded [] true 0x0000#16 s := reply_eq_concluded .done s

end

/-! ### The step lists, from each starting state -/

section
variable {s : State}

theorem perform_setPowerTrue_unpowered (hpm : s.session.inProgrammingMode = false) (hp : s.session.hasPower = false) :
    perform setPowerTrueSteps s = concluded U true 0x0000#16 (mainRail true s) := by
  simp [setPowerTrueSteps, perform, condHolds, hpm, hp, applyAll_powerUp_traced, reply_done_traced]

theorem perform_setPowerTrue_powered (hpm : s.session.inProgrammingMode = false) (hp : s.session.hasPower = true) :
    perform setPowerTrueSteps s = concluded [] true 0x0000#16 s := by
  simp [setPowerTrueSteps, perform, condHolds, hpm, hp, reply_done]

/-- The exit clears `hasPower`, so the main rail is always raised after it (R183). -/
theorem perform_setPowerTrue_programmingMode (hpm : s.session.inProgrammingMode = true) :
    perform setPowerTrueSteps s = concluded (X ++ U) true 0x0000#16 (mainRail true (exited s)) := by
  have hp : (exited s).session.hasPower = false := rfl
  simp [setPowerTrueSteps, perform, condHolds, hpm, hp, applyAll_exitPM_traced, applyAll_powerUp_traced,
    mainRail_traced, traced_traced, reply_done_traced]

theorem perform_setPowerFalse_unpowered (hpm : s.session.inProgrammingMode = false) (hp : s.session.hasPower = false) :
    perform setPowerFalseSteps s = concluded [] true 0x0000#16 s := by
  simp [setPowerFalseSteps, setPowerFalseBody, perform, condHolds, hpm, hp, reply_done]

theorem perform_setPowerFalse_powered (hpm : s.session.inProgrammingMode = false) (hp : s.session.hasPower = true) :
    perform setPowerFalseSteps s = concluded D true 0x0000#16 (mainRail false s) := by
  simp [setPowerFalseSteps, setPowerFalseBody, perform, condHolds, hpm, hp, applyAll_powerDown_traced,
    reply_done_traced]

/-- The exit clears `hasPower`, so no powering down follows it (R184). -/
theorem perform_setPowerFalse_programmingMode (hpm : s.session.inProgrammingMode = true) :
    perform setPowerFalseSteps s = concluded X true 0x0000#16 (exited s) := by
  have hp : (exited s).session.hasPower = false := rfl
  simp [setPowerFalseSteps, setPowerFalseBody, perform, condHolds, hpm, hp, applyAll_exitPM_traced, reply_done_traced]

theorem perform_setProgrammingModeTrue_inside (hpm : s.session.inProgrammingMode = true) :
    perform setProgrammingModeTrueSteps s = concluded [] true 0x0000#16 s := by
  simp [setProgrammingModeTrueSteps, perform, condHolds, hpm, reply_done]

/-- Outside ProgrammingMode the device is de-energized first, if it has power (R185). -/
theorem perform_setProgrammingModeTrue_outside (hpm : s.session.inProgrammingMode = false) :
    perform setProgrammingModeTrueSteps s =
      concluded (if s.session.hasPower then D ++ E else E) true 0x0000#16 (entered s) := by
  cases hp : s.session.hasPower
  case false =>
    simp [setProgrammingModeTrueSteps, setPowerFalseBody, perform, perform_prims, condHolds, hpm, hp,
      applyAll_enterPM_traced, reply_done_traced]
  case true =>
    simp [setProgrammingModeTrueSteps, setPowerFalseBody, perform, perform_prims, condHolds, hpm, hp,
      applyAll_powerDown_traced, applyAll_enterPM_traced, entered_traced, entered_mainRail, traced_traced,
      reply_done_traced]

theorem perform_setProgrammingModeFalse_guarded (hg : s.params.exitPmGuarded = true)
    (hpm : s.session.inProgrammingMode = false) :
    perform setProgrammingModeFalseSteps s = concluded [] true 0x0000#16 s := by
  simp [setProgrammingModeFalseSteps, perform, condHolds, hg, hpm, reply_done]

theorem perform_setProgrammingModeFalse_exit
    (h : s.params.exitPmGuarded = false ∨ s.session.inProgrammingMode = true) :
    perform setProgrammingModeFalseSteps s = concluded X true 0x0000#16 (exited s) := by
  have hc : condHolds .guardedAndNotInProgrammingMode s = false := by
    obtain h | h := h <;> simp [condHolds, h]
  simp [setProgrammingModeFalseSteps, perform, perform_prims, hc, applyAll_exitPM_traced, reply_done_traced]

end

/-- Settles O14: the step list from each starting state. -/
theorem setPowerTrueEntersPowered : Obligations.SetPowerTrueEntersPowered := fun _ _ =>
  ⟨fun hpm hp => congrArg Host.Outcome.next (perform_setPowerTrue_unpowered hpm hp),
   fun hpm hp => congrArg Host.Outcome.next (perform_setPowerTrue_powered hpm hp),
   fun hpm => congrArg Host.Outcome.next (perform_setPowerTrue_programmingMode hpm)⟩

/-- Settles O15: the step list from each starting state. -/
theorem setPowerFalseEntersUnpowered : Obligations.SetPowerFalseEntersUnpowered := fun _ _ =>
  ⟨fun hpm hp => congrArg Host.Outcome.next (perform_setPowerFalse_unpowered hpm hp),
   fun hpm hp => congrArg Host.Outcome.next (perform_setPowerFalse_powered hpm hp),
   fun hpm => congrArg Host.Outcome.next (perform_setPowerFalse_programmingMode hpm)⟩

/-- Settles O16: the step list inside ProgrammingMode and outside. -/
theorem setProgrammingModeTrueEntersProgrammingMode : Obligations.SetProgrammingModeTrueEntersProgrammingMode :=
  fun _ _ => ⟨fun hpm => congrArg Host.Outcome.next (perform_setProgrammingModeTrue_inside hpm),
    fun hpm => congrArg Host.Outcome.next (perform_setProgrammingModeTrue_outside hpm)⟩

/-- Settles O17: the exit list, or the guard before it. -/
theorem setProgrammingModeFalseRunsTheExitList : Obligations.SetProgrammingModeFalseRunsTheExitList :=
  fun _ _ => ⟨fun h => congrArg Host.Outcome.next (perform_setProgrammingModeFalse_exit h),
    fun hg hpm => congrArg Host.Outcome.next (perform_setProgrammingModeFalse_guarded hg hpm)⟩

end Sys2Proof.Machine

/-! PROOF (O19, O24). What an instruction keeps: an induction over its statements, and what its statements do not write
(10_state R24, R48, 20_memory R63, 44_address_tracker R210). -/

namespace Sys2Proof.Machine

open Safety (isTransition exec_of_hostSteps)

/-! ### The statements of an instruction -/

/-- The statements that an item can perform. -/
def statementsOf : Item → List Prim
  | .prim p => [p]
  | .command c => issueCommand c
  | .whenDo _ body => body
  | .returnWhen _ _ => []
  | .ret _ => []

/-- A host operation is its step list; a wire command is the call of itself (R160). -/
def itemsOf (i : Instr) : List Item :=
  match i with
  | .loadDataPm => [.command .loadDataPm]
  | .readDataPm => [.command .readDataPm]
  | .incAddr => [.command .incAddr]
  | .beginProg => [.command .beginProg]
  | .bulkErase => [.command .bulkErase]
  | .endProg => [.command .endProg]
  | i => (hostSteps i).getD []

theorem exec_eq_perform (i : Instr) (s : State) : exec i s = .next (perform (itemsOf i) s) := by
  cases i <;> rfl

/-- The statements that an instruction can perform. -/
def statements (i : Instr) : List Prim := (itemsOf i).flatMap statementsOf

section
variable {Q : State → Prop}

theorem applyAll_induction {ps : List Prim} {s : State} (hprim : ∀ p ∈ ps, ∀ u, Q u → Q (applyPrim p u)) (hs : Q s) :
    Q (applyAll ps s) := by
  induction ps generalizing s with
  | nil => exact hs
  | cons p ps ih =>
    exact ih (fun q hq => hprim q (List.mem_cons_of_mem p hq)) (hprim p List.mem_cons_self s hs)

/-- What every statement of a step list and every reply keep, the step list keeps. -/
theorem perform_induction {items : List Item} {s : State}
    (hprim : ∀ p ∈ items.flatMap statementsOf, ∀ u, Q u → Q (applyPrim p u))
    (hreply : ∀ r u, Q u → Q (reply r u)) (hs : Q s) : Q (perform items s) := by
  induction items generalizing s with
  | nil => exact hs
  | cons it rest ih =>
    rw [List.flatMap_cons] at hprim
    have hitem : ∀ p ∈ statementsOf it, ∀ u, Q u → Q (applyPrim p u) := fun p hp =>
      hprim p (List.mem_append_left _ hp)
    have hrest : ∀ u, Q u → Q (perform rest u) := fun u =>
      ih fun p hp => hprim p (List.mem_append_right _ hp)
    cases it with
    | prim p => exact hrest _ (hitem p List.mem_cons_self s hs)
    | command c => exact hrest _ (applyAll_induction hitem hs)
    | whenDo c body =>
      rw [perform]
      split
      · exact hrest _ (applyAll_induction hitem hs)
      · exact hrest s hs
    | returnWhen c r =>
      rw [perform]
      split
      · exact hreply r s hs
      · exact hrest s hs
    | ret r => exact hreply r s hs

/-- What every statement of an instruction and every reply keep, the instruction keeps. -/
theorem exec_induction {i : Instr} {s t : State} (ht : exec i s = .next t)
    (hprim : ∀ p ∈ statements i, ∀ u, Q u → Q (applyPrim p u))
    (hreply : ∀ r u, Q u → Q (reply r u)) (hs : Q s) : Q t := by
  rw [exec_eq_perform] at ht
  cases ht
  exact perform_induction hprim hreply hs

end

/-! ### The flags and `location` -/

/-- A statement that writes a status flag. -/
def writesFlag : Prim → Bool
  | .setHasPower _ => true
  | .setInProgrammingMode _ => true
  | _ => false

/-- A statement that writes `location`. -/
def writesLocation : Prim → Bool
  | .resetLocation => true
  | .advanceLocation => true
  | _ => false

theorem applyPrim_flags {p : Prim} (h : writesFlag p = false) (s : State) :
    (applyPrim p s).session.hasPower = s.session.hasPower ∧
    (applyPrim p s).session.inProgrammingMode = s.session.inProgrammingMode := by
  cases p <;> simp_all [applyPrim, writesFlag]

theorem applyPrim_location {p : Prim} (h : writesLocation p = false) (s : State) :
    (applyPrim p s).session.location = s.session.location := by
  cases p <;> simp_all [applyPrim, writesLocation]

theorem writesSession_of_writesFlag {p : Prim} (h : writesFlag p = true) : writesSession p = true := by
  cases p <;> simp_all [writesFlag, writesSession]

theorem writesSession_of_writesLocation {p : Prim} (h : writesLocation p = true) : writesSession p = true := by
  cases p <;> simp_all [writesLocation, writesSession]

theorem any_eq_false_of_imp {f g : Prim → Bool} {ps : List Prim} (himp : ∀ {p}, f p = true → g p = true)
    (h : ps.any g = false) : ps.any f = false :=
  List.any_eq_false.2 fun p hp hf => List.any_eq_false.1 h p hp (himp hf)

@[simp] theorem flatMap_statementsOf_prims (ps : List Prim) : (ps.map Item.prim).flatMap statementsOf = ps := by
  simp [List.flatMap_map, statementsOf]

@[simp] theorem any_writesSession_shiftOut (v : Word) (n : Nat) : (shiftOut v n).any writesSession = false := by
  simp [shiftOut, outPulse, writesSession]

@[simp] theorem any_writesSession_shiftIn (n : Nat) : (shiftIn n).any writesSession = false := by
  simp [shiftIn, inPulse, writesSession]

@[simp] theorem any_writesSession_issueCommand (c : CmdSel) : (issueCommand c).any writesSession = false := by
  rw [issueCommand, List.any_cons, any_writesSession_shiftOut]
  rfl

/-- Beside the transitions, `incAddress` alone has a statement that writes a Session field (R48, R63). -/
theorem statements_write_no_session {i : Instr} (h : isTransition i = false) :
    (∃ ig, i = .incAddress ig) ∨ (statements i).any writesSession = false := by
  cases i <;> cases h
  case incAddress ig => exact .inl ⟨ig, rfl⟩
  case readWord f ig => exact .inr (by simp [statements, itemsOf, hostSteps, readWordSteps, statementsOf, writesSession])
  case writeWord w => exact .inr (by simp [statements, itemsOf, hostSteps, writeWordSteps, statementsOf, writesSession])
  case burn ig => exact .inr (by simp [statements, itemsOf, hostSteps, burnSteps, statementsOf, writesSession])
  case erase ig => exact .inr (by simp [statements, itemsOf, hostSteps, eraseSteps, statementsOf, writesSession])
  all_goals exact .inr (by simp [statements, itemsOf, statementsOf])

/-- No statement of another instruction than the transitions writes a flag (R48). -/
theorem statements_write_no_flag {i : Instr} (h : isTransition i = false) : (statements i).any writesFlag = false := by
  obtain ⟨ig, rfl⟩ | hsession := statements_write_no_session h
  · have hcommand := any_eq_false_of_imp writesSession_of_writesFlag (any_writesSession_issueCommand .incAddr)
    simp [statements, itemsOf, hostSteps, incAddressSteps, statementsOf, hcommand, writesFlag]
  · exact any_eq_false_of_imp writesSession_of_writesFlag hsession

/-- Entry into ProgrammingMode and `incAddress` alone have a statement that writes `location` (R210). -/
theorem statements_write_no_location (i : Instr) : (∃ ig, i = .incAddress ig) ∨ (∃ ig, i = .setProgrammingModeTrue ig) ∨
    (statements i).any writesLocation = false := by
  cases hi : isTransition i with
  | false => exact (statements_write_no_session hi).imp_right fun h => .inr <|
      any_eq_false_of_imp writesSession_of_writesLocation h
  | true =>
    cases i <;> cases hi
    case setProgrammingModeTrue.refl ig => exact .inr (.inl ⟨ig, rfl⟩)
    all_goals exact .inr (.inr rfl)

/-- Settles O19: no statement of such an instruction writes a flag. -/
theorem onlyTransitionsWriteTheFlags : Obligations.OnlyTransitionsWriteTheFlags := by
  intro i s t ht hi
  refine exec_induction (Q := fun u => u.session.hasPower = s.session.hasPower ∧
    u.session.inProgrammingMode = s.session.inProgrammingMode) ht (fun p hp u hu => ?_) (fun _ _ hu => hu) ⟨rfl, rfl⟩
  have hflag : writesFlag p = false := by simpa using List.any_eq_false.1 (statements_write_no_flag hi) p hp
  obtain ⟨hpower, hmode⟩ := applyPrim_flags hflag u
  exact ⟨hpower.trans hu.1, hmode.trans hu.2⟩

/-- Settles O24: no statement writes the parameters, and `location` is written by statements of two instructions only; on
entry it is kept or reset. -/
theorem onlyEntryAndIncAddressWriteLocation : Obligations.OnlyEntryAndIncAddressWriteLocation := by
  intro i s t ht
  obtain ⟨hml, hparams⟩ : t.session.memoryLength = s.session.memoryLength ∧ t.params = s.params := by
    refine exec_induction (Q := fun u => u.session.memoryLength = s.session.memoryLength ∧ u.params = s.params) ht
      (fun p _ u hu => ?_) (fun _ _ hu => hu) ⟨rfl, rfl⟩
    obtain ⟨-, -, hparams, hml, -⟩ := applyPrim_keeps p u
    exact ⟨hml.trans hu.1, hparams.trans hu.2⟩
  refine ⟨hml, hparams, ?_⟩
  obtain hinc | ⟨ig, rfl⟩ | hother := statements_write_no_location i
  · exact .inr (.inl hinc)
  · obtain ⟨hinside, houtside⟩ := setProgrammingModeTrueEntersProgrammingMode ig s
    cases hpm : s.session.inProgrammingMode with
    | true =>
      rw [hinside hpm] at ht
      cases ht
      exact .inl rfl
    | false =>
      rw [houtside hpm] at ht
      cases ht
      exact .inr (.inr ⟨⟨ig, rfl⟩, rfl⟩)
  · refine .inl (exec_induction (Q := fun u => u.session.location = s.session.location) ht (fun p hp u hu => ?_)
      (fun _ _ hu => hu) rfl)
    exact (applyPrim_location (by simpa using List.any_eq_false.1 hother p hp) u).trans hu

end Sys2Proof.Machine

/-! PROOF (O42). The sequencer (10_state R40): a step list whose operation has been accepted is run item by item to the
state in which it is performed at once (20_memory R72). -/

namespace Sys2Proof.Machine

open Safety (exec_of_hostSteps)

/-! ### The sequencer beside the statements -/

/-- Whatever its tests find, the step list ends with a return (R13, R191). -/
def returns : List Item → Bool
  | [] => false
  | .ret _ :: _ => true
  | .prim _ :: rest => returns rest
  | .command _ :: rest => returns rest
  | .whenDo _ _ :: rest => returns rest
  | .returnWhen _ _ :: rest => returns rest

/-- Every host operation returns (R105). -/
theorem returns_of_hostSteps {i : Instr} {items : List Item} (h : hostSteps i = some items) : returns items = true := by
  cases i <;> cases h <;> rfl

@[simp] theorem returns_prims (ps : List Prim) (rest : List Item) : returns (ps.map .prim ++ rest) = returns rest := by
  induction ps with
  | nil => rfl
  | cons p ps ih => exact ih

section
variable (items rest : List Item) (s : State)

theorem setSeq_beginOp : setSeq rest (beginOp items s) = beginOp rest s := rfl

theorem condHolds_beginOp (c : Cond) : condHolds c (beginOp items s) = condHolds c s := by
  cases c <;> rfl

/-- No statement sees the sequencer or writes it. -/
theorem applyPrim_beginOp (p : Prim) : applyPrim p (beginOp items s) = beginOp items (applyPrim p s) := by
  cases p <;> rfl

theorem applyAll_beginOp (ps : List Prim) : applyAll ps (beginOp items s) = beginOp items (applyAll ps s) := by
  induction ps generalizing s with
  | nil => rfl
  | cons p ps ih => rw [applyAll_cons, applyPrim_beginOp, ih, applyAll_cons]

end

/-- A step list performed at once leaves `SEQ` as it is. -/
theorem perform_seq (items : List Item) (s : State) : (perform items s).sequencer.seq = s.sequencer.seq :=
  perform_induction (Q := fun u => u.sequencer.seq = s.sequencer.seq)
    (fun p _ u hu => by rw [(applyPrim_keeps p u).1, hu]) (fun _ _ hu => hu) rfl

/-- An accepted operation, performed at once, ends as it would without the acceptance, `SEQ` as it was set. -/
theorem perform_beginOp {items : List Item} (h : returns items = true) (q : List Item) (s : State) :
    perform items (beginOp q s) = setSeq q (perform items s) := by
  induction items generalizing s with
  | nil => cases h
  | cons it rest ih =>
    cases it with
    | prim p => rw [perform, applyPrim_beginOp, ih h, perform]
    | command c => rw [perform, applyAll_beginOp, ih h, perform]
    | whenDo c body =>
      rw [perform, condHolds_beginOp, perform, applyAll_beginOp]
      split <;> exact ih h _
    | returnWhen c r =>
      rw [perform, condHolds_beginOp, perform]
      split
      · rfl
      · exact ih h s
    | ret r => rfl

theorem setSeq_of_seq {s : State} {q : List Item} (h : s.sequencer.seq = q) : setSeq q s = s := by
  subst h
  rfl

/-- With no step list in progress, the acceptance of a host operation shows in nothing it leaves (R101). -/
theorem exec_accept {i : Instr} {items : List Item} {s : State} (h : hostSteps i = some items)
    (hseq : s.sequencer.seq = []) : exec i (accept s) = exec i s := by
  have haccept : accept s = beginOp [] s := (setSeq_of_seq (s := accept s) hseq).symm
  rw [exec_of_hostSteps h, exec_of_hostSteps h, haccept, perform_beginOp (returns_of_hostSteps h),
    setSeq_of_seq ((perform_seq items s).trans hseq)]

/-! ### Item by item -/

theorem run_succ_of_step {s t : State} (n : Nat) (h : step s = .next t) : core.run (n + 1) s = core.run n t := by
  have h' : core.step s = .next t := h
  simp only [Host.Core.run, h']

section
variable (rest : List Item) (s : State)

theorem step_prim (p : Prim) : step (beginOp (.prim p :: rest) s) = .next (beginOp rest (applyPrim p s)) := by
  rw [← setSeq_beginOp (.prim p :: rest) rest, ← applyPrim_beginOp]
  rfl

theorem step_command (c : CmdSel) :
    step (beginOp (.command c :: rest) s) = .next (beginOp rest (applyAll (issueCommand c) s)) := by
  rw [← applyAll_beginOp]
  exact exec_commandInstr c (beginOp rest s)

theorem step_whenDo (c : Cond) (body : List Prim) : step (beginOp (.whenDo c body :: rest) s) =
    .next (beginOp (if condHolds c s then body.map .prim ++ rest else rest) s) := by
  rw [← condHolds_beginOp (.whenDo c body :: rest)]
  rfl

theorem step_returnWhen (c : Cond) (r : Reply) : step (beginOp (.returnWhen c r :: rest) s) =
    .next (if condHolds c s then setSeq [] (reply r s) else beginOp rest s) := by
  rw [← condHolds_beginOp (.returnWhen c r :: rest)]
  rfl

theorem step_ret (r : Reply) : step (beginOp (.ret r :: rest) s) = .next (setSeq [] (reply r s)) := rfl

end

/-- From every state in which the step list stands to be performed, some number of steps leads to the state in which it
has been performed at once. -/
def RunsOut (items : List Item) : Prop :=
  ∀ s : State, ∃ n, core.run n (beginOp items s) = .next (setSeq [] (perform items s))

/-- One step more before a step list that runs out. -/
theorem RunsOut.of_step {rest : List Item} (hrest : RunsOut rest) {s t u : State} (hstep : step s = .next (beginOp rest t))
    (hu : perform rest t = u) : ∃ n, core.run n s = .next (setSeq [] u) := by
  obtain ⟨n, hn⟩ := hrest t
  exact ⟨n + 1, by rw [run_succ_of_step n hstep, hn, hu]⟩

theorem RunsOut.prims {rest : List Item} (h : RunsOut rest) (ps : List Prim) : RunsOut (ps.map .prim ++ rest) := by
  induction ps with
  | nil => exact h
  | cons p ps ih => exact fun s => ih.of_step (step_prim _ s p) rfl

/-- Every returning step list runs out, item by item. -/
theorem runsOut_of_returns {items : List Item} (h : returns items = true) : RunsOut items := by
  induction items with
  | nil => cases h
  | cons it rest ih =>
    intro s
    cases it with
    | prim p => exact (ih h).of_step (step_prim rest s p) rfl
    | command c => exact (ih h).of_step (step_command rest s c) rfl
    | whenDo c body =>
      have hstep := step_whenDo rest s c body
      cases hc : condHolds c s with
      | false =>
        rw [hc] at hstep
        exact (ih h).of_step hstep (by simp [perform, hc])
      | true =>
        rw [hc] at hstep
        exact ((ih h).prims body).of_step hstep (by simp [perform, hc, perform_prims])
    | returnWhen c r =>
      have hstep := step_returnWhen rest s c r
      cases hc : condHolds c s with
      | false =>
        rw [hc] at hstep
        exact (ih h).of_step hstep (by simp [perform, hc])
      | true =>
        rw [hc] at hstep
        exact ⟨1, by rw [run_succ_of_step 0 hstep]; simp [Host.Core.run, perform, hc]⟩
    | ret r => exact ⟨1, run_succ_of_step 0 (step_ret rest s r)⟩

/-- Settles O42: the step list returns, so it runs out, and where no step list was in progress none is left. -/
theorem itemwiseStepsReachTheAtomicResult : Obligations.ItemwiseStepsReachTheAtomicResult := by
  intro i items s hsteps hseq
  obtain ⟨n, hn⟩ := runsOut_of_returns (returns_of_hostSteps hsteps) s
  rw [setSeq_of_seq ((perform_seq items s).trans hseq)] at hn
  exact ⟨n, perform items s, exec_of_hostSteps hsteps s, hn⟩

end Sys2Proof.Machine

/-! PROOF (O38, O39). The invariant of an operation boundary (10_state R25, R38): what a transition can do, said once, and
what a step of an idle engine can do; each keeps the boundary. -/

namespace Sys2Proof.Safety

open Sys2Proof.Machine

/-! ### What a transition can do -/

/-- What a transition performs from `s`, and where it leads before its reply (R183 to R188). -/
inductive RailMove (s : State) : List Event → State → Prop
  | stay : RailMove s [] s
  | powerUp (hpm : s.session.inProgrammingMode = false) (hp : s.session.hasPower = false) :
      RailMove s U (mainRail true s)
  | powerDown (hpm : s.session.inProgrammingMode = false) (hp : s.session.hasPower = true) :
      RailMove s D (mainRail false s)
  | exit : RailMove s X (exited s)
  | exitPowerUp (hpm : s.session.inProgrammingMode = true) : RailMove s (X ++ U) (mainRail true (exited s))
  | enter (hpm : s.session.inProgrammingMode = false) (hp : s.session.hasPower = false) : RailMove s E (entered s)
  | powerDownEnter (hpm : s.session.inProgrammingMode = false) (hp : s.session.hasPower = true) :
      RailMove s (D ++ E) (entered s)

/-- A transition makes one of these moves and replies (R189). -/
theorem exec_transition_cases {i : Instr} (hi : isTransition i = true) (s : State) :
    ∃ events u, RailMove s events u ∧ exec i s = .next (concluded events true 0x0000#16 u) := by
  have answers {items : List Item} {events : List Event} {u : State} (hsteps : hostSteps i = some items)
      (hmove : RailMove s events u) (hperform : perform items s = concluded events true 0x0000#16 u) :
      ∃ events u, RailMove s events u ∧ exec i s = .next (concluded events true 0x0000#16 u) :=
    ⟨events, u, hmove, hperform ▸ exec_of_hostSteps hsteps s⟩
  cases i <;> cases hi <;> cases hpm : s.session.inProgrammingMode
  case setPowerTrue.refl.true => exact answers rfl (.exitPowerUp hpm) (perform_setPowerTrue_programmingMode hpm)
  case setPowerTrue.refl.false =>
    cases hp : s.session.hasPower with
    | true => exact answers rfl .stay (perform_setPowerTrue_powered hpm hp)
    | false => exact answers rfl (.powerUp hpm hp) (perform_setPowerTrue_unpowered hpm hp)
  case setPowerFalse.refl.true => exact answers rfl .exit (perform_setPowerFalse_programmingMode hpm)
  case setPowerFalse.refl.false =>
    cases hp : s.session.hasPower with
    | true => exact answers rfl (.powerDown hpm hp) (perform_setPowerFalse_powered hpm hp)
    | false => exact answers rfl .stay (perform_setPowerFalse_unpowered hpm hp)
  case setProgrammingModeTrue.refl.true => exact answers rfl .stay (perform_setProgrammingModeTrue_inside hpm)
  case setProgrammingModeTrue.refl.false =>
    have hperform := perform_setProgrammingModeTrue_outside hpm
    cases hp : s.session.hasPower with
    | true => exact answers rfl (.powerDownEnter hpm hp) (by rwa [hp] at hperform)
    | false => exact answers rfl (.enter hpm hp) (by rwa [hp] at hperform)
  case setProgrammingModeFalse.refl.true => exact answers rfl .exit (perform_setProgrammingModeFalse_exit (.inr hpm))
  case setProgrammingModeFalse.refl.false =>
    cases hg : s.params.exitPmGuarded with
    | true => exact answers rfl .stay (perform_setProgrammingModeFalse_guarded hg hpm)
    | false => exact answers rfl .exit (perform_setProgrammingModeFalse_exit (.inl hg))

/-! ### What a step of an idle engine can do -/

/-- A host operation is guarded or a transition. -/
theorem isGuarded_or_isTransition {i : Instr} {items : List Item} (h : hostSteps i = some items) :
    isGuarded i = true ∨ isTransition i = true := by
  cases i <;> cases h <;> simp [isGuarded, isTransition]

/-- What a decoded request can be (R102, R107). -/
theorem hostSteps_of_decodeRequest {r : BitVec 20} {i : Instr} (h : decodeRequest r = .ok i) :
    ∃ items, hostSteps i = some items := by
  obtain hsteps | ⟨c, rfl⟩ := hostSteps_or_command i
  · exact hsteps
  · have hencode := encodeOfDecodeRestoresTheWord (.request r) (commandInstr c) h
    rw [encode_commandInstr] at hencode
    cases hencode

/-- A step at a boundary waits, fails, or runs a host operation; of the state before it, only the announcement of the last
response and the requests differ (R101, R104). -/
inductive IdleStep (s t : State) : Prop
  | waits (ht : t = idleCycle s)
  | fails (rest : List (BitVec 20)) (ht : t = reply .fail { s with bench.requests := rest })
  | runs (rest : List (BitVec 20)) (i : Instr) (hi : isGuarded i = true ∨ isTransition i = true)
      (ht : exec i { s with bench.requests := rest } = .next t)

theorem step_idle_cases {s t : State} (h : Idle s) (hstep : step s = .next t) : IdleStep s t := by
  obtain ⟨hseq, -⟩ := h
  have hidle : s.sequencer.busy = false := by rw [hseq]
  cases hreq : s.bench.requests with
  | nil =>
    rw [idleEngineWaitsForARequest s hidle hreq] at hstep
    cases hstep
    exact .waits rfl
  | cons r rest =>
    cases hdec : decodeRequest r with
    | error e =>
      rw [step_of_decode_error hidle hreq hdec] at hstep
      cases hstep
      exact .fails rest rfl
    | ok i =>
      obtain ⟨items, hsteps⟩ := hostSteps_of_decodeRequest hdec
      rw [stepRunsTheDecodedRequest s r rest i hidle hreq hdec] at hstep
      refine .runs rest i (isGuarded_or_isTransition hsteps) ?_
      rw [← hstep]
      exact (exec_accept hsteps (by simp [hseq])).symm

/-! ### The boundary -/

/-- A boundary is in one of the three modes (R26). -/
theorem exists_atMode_of_boundary {s : State} (h : Boundary s) : ∃ m, AtMode m s := by
  have ⟨_, ⟨hflags, _⟩, _⟩ := h
  have hmode : modeOf s.session ≠ none := by
    unfold modeOf
    split <;> simp_all
  obtain ⟨m, hm⟩ := Option.ne_none_iff_exists'.1 hmode
  exact ⟨m, h, hm⟩

/-- The move of a transition ends at a boundary (R38). -/
theorem boundary_of_railMove {s u : State} {events : List Event} (h : Boundary s) (hmove : RailMove s events u) :
    Boundary u := by
  have ⟨⟨hseq, _⟩, ⟨_, hml, hlo, hhi⟩, _⟩ := h
  have hexit : Boundary (exited s) := ⟨⟨hseq, rfl⟩, ⟨by simp [exited], hml, hlo, hhi⟩, rfl⟩
  have henter : Boundary (entered s) := ⟨⟨hseq, rfl⟩, ⟨fun _ => rfl, hml, le_rfl, by simp [entered]; omega⟩, rfl⟩
  have hrail {v : Bool} {s : State} (h : Boundary s) (hpm : s.session.inProgrammingMode = false) :
      Boundary (mainRail v s) := by
    obtain ⟨⟨hseq, -⟩, ⟨-, hml, hloc⟩, hlines⟩ := h
    exact ⟨⟨hseq, rfl⟩, ⟨by simp [mainRail, hpm], hml, hloc⟩, by simp [mainRail, hlines, boundaryLines]⟩
  cases hmove with
  | stay => exact h
  | powerUp hpm _ => exact hrail h hpm
  | powerDown hpm _ => exact hrail h hpm
  | exit => exact hexit
  | exitPowerUp _ => exact hrail hexit rfl
  | enter _ _ => exact henter
  | powerDownEnter _ _ => exact henter

theorem boundary_concluded {s : State} (h : Boundary s) (events : List Event) (ok : Bool) (data : Word) :
    Boundary (concluded events ok data s) := by
  obtain ⟨⟨hseq, hdly⟩, hsession, hlines⟩ := h
  exact ⟨⟨by simp [concluded, hseq], hdly⟩, hsession, hlines⟩

theorem boundary_reply {s : State} (h : Boundary s) (r : Reply) : Boundary (reply r s) := by
  rw [reply_eq_concluded]
  exact boundary_concluded h ..

/-- A host operation leads from a boundary to a boundary (R25, R38). -/
theorem exec_keeps_boundary {i : Instr} {s t : State} (h : Boundary s) (hi : isGuarded i = true ∨ isTransition i = true)
    (ht : exec i s = .next t) : Boundary t := by
  obtain hi | hi := hi
  · obtain ⟨m, hm⟩ := exists_atMode_of_boundary h
    obtain ⟨u, hu, hmu⟩ := exec_guarded_atMode hm hi
    obtain rfl : u = t := by simpa [hu] using ht
    exact hmu.1
  · obtain ⟨events, u, hmove, hu⟩ := exec_transition_cases hi s
    obtain rfl : concluded events true 0x0000#16 u = t := by simpa [hu] using ht
    exact boundary_concluded (boundary_of_railMove h hmove) ..

/-- Settles O39: waiting and failing touch nothing the boundary speaks of, and a host operation leads to a boundary. -/
theorem stepKeepsTheBoundaryInvariant : Obligations.StepKeepsTheBoundaryInvariant := by
  intro s t h hstep
  cases step_idle_cases h.1 hstep with
  | waits ht => exact ht ▸ h
  | fails rest ht => exact ht ▸ boundary_reply (s := { s with bench.requests := rest }) h .fail
  | runs rest i hi ht => exact exec_keeps_boundary (s := { s with bench.requests := rest }) h hi ht

/-- Settles O38: the reset state is evaluated. -/
theorem resetMeetsTheInvariants : Obligations.ResetMeetsTheInvariants := by
  unfold Obligations.ResetMeetsTheInvariants
  decide

end Sys2Proof.Safety

/-! PROOF (O40). The rail order along the trace (43_power_mode R192): the checks of a trace carry over to a longer one, the
events of each move pass them from the lines of its mode, and the events of a guarded operation write no rail. -/

namespace Sys2Proof.Safety

open Sys2Proof.Machine

/-! ### The trace accounts for the lines -/

/-- The trace from reset accounts for the lines (R34 to R37). -/
def LinesTraced (s : State) : Prop := linesAfter Lines.reset s.bench.trace = s.lines

theorem linesTraced_applyPrim {s : State} (h : LinesTraced s) (p : Prim) : LinesTraced (applyPrim p s) := by
  unfold LinesTraced at *
  cases p <;> simp [applyPrim, linesAfter_append, h] <;> rfl

theorem linesTraced_exec {i : Instr} {s t : State} (h : LinesTraced s) (ht : exec i s = .next t) : LinesTraced t :=
  exec_induction ht (fun p _ _ hu => linesTraced_applyPrim hu p) (fun _ _ hu => hu) h

/-! ### The checks along a longer trace -/

/-- The two latest events before an event, the latest last; none at the start of a trace. -/
def lastTwo (p2 p1 : Option Event) : List Event → Option Event × Option Event
  | [] => (p2, p1)
  | e :: rest => lastTwo p1 (some e) rest

/-- The check of settle times is kept by events added later (R192 (d)). -/
theorem settleOk_append {ln : Lines} {e : Event} {rest : List Event} (h : settleOk ln e rest = true) (b : List Event) :
    settleOk ln e (rest ++ b) = true := by
  cases e with
  | wr l v =>
    cases l with
    | vdd =>
      cases hc : v && ln.outVPP with
      | true =>
        cases rest with
        | nil => simp [settleOk, hc] at h
        | cons e' rest => simpa [settleOk, hc] using h
      | false =>
        simp only [settleOk, hc, Bool.false_eq_true, if_false, decide_eq_true_eq] at h ⊢
        exact h.trans (settleTime_le_append rest b)
    | _ => rfl
  | _ => rfl

/-- A beginning of full length is the beginning of a longer list. -/
theorem take_append_of_length_take {α : Type} {l : List α} {n : Nat} (h : (l.take n).length = n) (b : List α) :
    (l ++ b).take n = l.take n :=
  List.take_append_of_le_length (by rw [List.length_take] at h; omega)

/-- The check of an event is kept by events added later. -/
theorem railEventOk_append {p2 p1 : Option Event} {ln : Lines} {e : Event} {rest : List Event}
    (h : railEventOk p2 p1 ln e rest = true) (b : List Event) : railEventOk p2 p1 ln e (rest ++ b) = true := by
  simp only [railEventOk, Bool.and_eq_true] at h ⊢
  obtain ⟨⟨⟨hrise, hfall⟩, hhigh⟩, hsettle⟩ := h
  refine ⟨⟨⟨?_, hfall⟩, hhigh⟩, settleOk_append hsettle b⟩
  split
  · next he =>
    obtain ⟨hlow, htake⟩ : (!ln.outVDD) = true ∧ rest.take 2 = [.dly 10, .wr .vdd true] := by simpa [he] using hrise
    rw [take_append_of_length_take (by rw [htake]; rfl), htake, hlow]
    rfl
  · rfl

/-- A trace keeps the rail order if its beginning does, and its end does after it. -/
theorem railOrderOk_append {p2 p1 : Option Event} {ln : Lines} {a b : List Event}
    (ha : railOrderOk p2 p1 ln a = true)
    (hb : railOrderOk (lastTwo p2 p1 a).1 (lastTwo p2 p1 a).2 (linesAfter ln a) b = true) :
    railOrderOk p2 p1 ln (a ++ b) = true := by
  induction a generalizing p2 p1 ln with
  | nil => exact hb
  | cons e a ih =>
    obtain ⟨he, ha⟩ : railEventOk p2 p1 ln e a = true ∧ railOrderOk p1 (some e) (eventLines ln e) a = true := by
      simpa [railOrderOk] using ha
    have hrest := ih ha hb
    simp [railOrderOk, railEventOk_append he b, hrest]

/-! ### The events of a move, and of a guarded operation -/

/-- A move's own trace is still to be added by the reply. -/
theorem RailMove.trace_eq {s u : State} {events : List Event} (h : RailMove s events u) :
    u.bench.trace = s.bench.trace := by
  cases h <;> rfl

/-- The events of a move keep the rail order from the lines of its mode, whatever came before them (R183 to R188, R192). -/
theorem railOrderOk_of_railMove {s u : State} {events : List Event} (h : Boundary s) (hmove : RailMove s events u)
    (p2 p1 : Option Event) : railOrderOk p2 p1 s.lines events = true := by
  have ⟨_, ⟨hflags, _⟩, hlines⟩ := h
  rw [hlines]
  cases hmove with
  | stay => rfl
  | powerUp hpm hp => rw [boundaryLines, hpm, hp]; rfl
  | powerDown hpm hp => rw [boundaryLines, hpm, hp]; rfl
  | exit =>
    obtain ⟨m, hm⟩ := exists_atMode_of_boundary h
    rw [boundaryLines, hm.hasPower, hm.inProgrammingMode]
    cases m <;> rfl
  | exitPowerUp hpm => rw [boundaryLines, hpm, hflags hpm]; rfl
  | enter hpm hp => rw [boundaryLines, hpm, hp]; rfl
  | powerDownEnter hpm hp => rw [boundaryLines, hpm, hp]; rfl

/-- With the main rail high, events that write no rail keep the rail order. -/
theorem railOrderOk_of_no_rail {events : List Event} (p2 p1 : Option Event) {ln : Lines} (hvdd : ln.outVDD = true)
    (h : ∀ v, Event.wr .vdd v ∉ events ∧ Event.wr .vpp v ∉ events) : railOrderOk p2 p1 ln events = true := by
  induction events generalizing p2 p1 ln with
  | nil => rfl
  | cons e rest ih =>
    have hrest : ∀ v, Event.wr .vdd v ∉ rest ∧ Event.wr .vpp v ∉ rest := fun v =>
      ⟨List.not_mem_of_not_mem_cons (h v).1, List.not_mem_of_not_mem_cons (h v).2⟩
    obtain ⟨he, hline⟩ : railEventOk p2 p1 ln e rest = true ∧ (eventLines ln e).outVDD = true := by
      cases e with
      | wr l v =>
        cases l with
        | vdd => exact absurd List.mem_cons_self (h v).1
        | vpp => exact absurd List.mem_cons_self (h v).2
        | clk => simp [railEventOk, eventLines, setOut, settleOk, hvdd]
        | dat => simp [railEventOk, eventLines, setOut, settleOk, hvdd]
      | dir l d => cases l <;> simp [railEventOk, eventLines, setDir, settleOk, hvdd]
      | rd v => simp [railEventOk, eventLines, settleOk, hvdd]
      | dly n => simp [railEventOk, eventLines, settleOk, hvdd]
    rw [railOrderOk, he, ih _ _ hline hrest]
    rfl

/-! ### The step -/

/-- Events that keep the rail order from the lines of a sound trace make a longer sound trace. -/
theorem traceOk_of_append {s t : State} {events : List Event} (h : TraceOk s) (hlines : LinesTraced t)
    (htrace : t.bench.trace = s.bench.trace ++ events)
    (hevents : ∀ p2 p1, railOrderOk p2 p1 s.lines events = true) : TraceOk t := by
  obtain ⟨hs, hrail⟩ := h
  refine ⟨hlines, ?_⟩
  rw [htrace]
  exact railOrderOk_append hrail (hs ▸ hevents _ _)

/-- A host operation makes the trace of a boundary longer by events that keep the rail order (R192). -/
theorem exec_keeps_traceOk {i : Instr} {s t : State} (h : Boundary s) (htraced : TraceOk s)
    (hi : isGuarded i = true ∨ isTransition i = true) (ht : exec i s = .next t) : TraceOk t := by
  have hlines : LinesTraced t := linesTraced_exec htraced.1 ht
  obtain hi | hi := hi
  · cases hpm : s.session.inProgrammingMode with
    | false =>
      rw [exec_guarded_outside hi hpm] at ht
      cases ht
      exact traceOk_of_append htraced hlines rfl fun _ _ => rfl
    | true =>
      have hmode : AtMode .programmingMode s := ⟨h, modeOf_eq_some_iff.2 ⟨h.2.1.1 hpm, hpm⟩⟩
      obtain ⟨u, events, hu, -, htrace, hrails, -⟩ := programmingOperationsRestoreTheLines i s hmode hi
      obtain rfl : u = t := by simpa [hu] using ht
      refine traceOk_of_append htraced hlines htrace fun p2 p1 => railOrderOk_of_no_rail p2 p1 ?_ hrails
      rw [hmode.lines_programmingMode]
  · obtain ⟨events, u, hmove, hu⟩ := exec_transition_cases hi s
    obtain rfl : concluded events true 0x0000#16 u = t := by simpa [hu] using ht
    exact traceOk_of_append htraced hlines (congrArg (· ++ events) hmove.trace_eq) (railOrderOk_of_railMove h hmove)

/-- Settles O40: waiting and failing leave the trace as it is, and a host operation makes it longer by events that keep the
rail order. -/
theorem stepKeepsTheRailOrder : Obligations.StepKeepsTheRailOrder := by
  intro s t h htraced hstep
  cases step_idle_cases h.1 hstep with
  | waits ht => exact ht ▸ htraced
  | fails rest ht => exact ht ▸ htraced
  | runs rest i hi ht => exact exec_keeps_traceOk (s := { s with bench.requests := rest }) h htraced hi ht

end Sys2Proof.Safety

/-! PROOF (O21, O22). The address tracker (44_address_tracker R211, R212, R215). -/

namespace Sys2Proof.Machine

open Safety (concluded CMD minDuration minDuration_append sessionOk)

/-- Settles O21: outside, the guard; inside, the command, its wait and the exact increment. -/
theorem incAddressAdvancesLocation : Obligations.IncAddressAdvancesLocation := by
  intro ig s
  refine ⟨exec_guarded_outside rfl, fun hpm hsession => ?_, ?_, ?_⟩
  · obtain ⟨-, hml, -⟩ := hsession
    rw [exec_incAddress_inside hpm, advanceLocation, ← nextLocation_eq _ _ _ hml]
    rfl
  · simp [CMD_length]
  · simp [minDuration_append, minDuration_CMD, minDuration]

/-- Over the range of `location` the remainder is the comparator's choice (R212). -/
theorem emod_eq_comparator {ml : Nat} {loc : Int} (hlo : -1 ≤ loc) (hhi : loc < ml) :
    (loc + 1) % (ml : Int) = if loc = (ml : Int) - 1 then 0 else loc + 1 := by
  split
  · next htop => rw [htop, sub_add_cancel, Int.emod_self]
  · exact Int.emod_eq_of_lt (by omega) (by omega)

/-- Settles O22: the register holds the whole range, so nothing is narrowed, and the remainder is the comparator's choice. -/
theorem incrementerEqualsComparatorForm : Obligations.IncrementerEqualsComparatorForm := by
  intro locW ml loc hml hlo hhi
  obtain ⟨hw, hpos, htop⟩ := of_decide_eq_true hml
  have htop' : (ml : Int) ≤ 2 ^ (locW - 1) := by exact_mod_cast htop
  have hnext : nextLocation locW ml loc = if loc = (ml : Int) - 1 then 0 else loc + 1 :=
    (nextLocation_eq locW ml loc hml).trans (emod_eq_comparator hlo hhi)
  refine ⟨narrow_eq_self locW loc hw (by omega) (by omega), by omega, by omega, hnext, ?_, ?_⟩ <;>
    rw [hnext] <;> split <;> omega

end Sys2Proof.Machine

/-! PROOF (O34, O36). The wire commands and the input half of the bit serializer (41_bit_serializer R143 to R146,
42_command_encoder R160 to R168). -/

namespace Sys2Proof.Machine

open Safety (CMD commandBits lsbFirst pulsesIn pulsesIn_length minDuration minDuration_pulsesIn)

/-- The printed wire bits are those of the opcode, least significant first (R161). -/
theorem commandBits_eq_lsbFirst (c : CmdSel) : commandBits c = lsbFirst 6 ((opcodeOf c).setWidth 16) := by
  cases c <;> rfl

/-- Settles O34: a wire command is the call of `issueCommand`. -/
theorem wireCommandSendsSixPulses : Obligations.WireCommandSendsSixPulses := fun c s =>
  ⟨(exec_commandInstr c s).trans (congrArg _ (applyAll_issueCommand c s)), commandBits_eq_lsbFirst c, CMD_length c,
    minDuration_CMD c⟩

/-- With no bit to receive, `shiftIn` clears `ACC` and `BITCNT` and performs no primitive (R143). -/
theorem applyAll_shiftIn_zero (s : State) :
    applyAll (shiftIn 0) s = { s with datapath.acc := 0#16, datapath.bitcnt := 0#5 } := rfl

/-- `shiftIn` for every count, the levels being listed: the clause of no bit and the clause of at least one, in one
equation. -/
theorem applyAll_shiftIn_of_datIn {levels rest : List Level} {s : State} (h : s.bench.datIn = levels ++ rest) :
    applyAll (shiftIn levels.length) s = { s with
      lines := if levels = [] then s.lines else { s.lines with outCLK := false }
      datapath := { s.datapath with
        acc := levels.foldl insertSample 0#16, bitcnt := 0#5
        dlycnt := if levels = [] then s.datapath.dlycnt else 0#15 }
      bench.trace := s.bench.trace ++ pulsesIn levels
      bench.datIn := rest
      bench.samples := s.bench.samples + levels.length } := by
  cases levels with
  | nil =>
    obtain rfl : s.bench.datIn = rest := h
    simp [applyAll_shiftIn_zero, pulsesIn]
  | cons b levels =>
    have hlevels : takeLevels (levels.length + 1) s.bench.datIn s.bench.samples = b :: levels := by
      rw [h]; exact takeLevels_append (b :: levels) rest _
    simp only [List.length_cons, applyAll_shiftIn_succ, hlevels]
    simp [h]

/-- Settles O36: sampling places the levels left-justified in order of receipt; a pulse is five events and ten
microseconds. -/
theorem shiftInCollectsInOrderOfReceipt : Obligations.ShiftInCollectsInOrderOfReceipt := by
  intro levels rest s hlen hdat
  refine ⟨levels.foldl insertSample 0#16, fun k hk => ?_, applyAll_shiftIn_of_datIn hdat, pulsesIn_length levels,
    minDuration_pulsesIn levels⟩
  rw [getLsbD_foldl_insertSample levels 0#16 hlen k hk, BitVec.getLsbD_zero]

end Sys2Proof.Machine

/-! PROOF (O25, O33). The levels a read frame samples, and the bits a trace decoder recovers from each operation
(30_encoding R92, R93, 45_programming_ops R221). -/

namespace Sys2Proof.Machine

open Safety (concluded CMD pulsesIn pulsesIn_length minDuration minDuration_append minDuration_pulsesIn wireBits
  wireBits_pulsesOut wireBits_pulsesIn commandBits)

/-- Sixteen levels sampled stand in `ACC` in order of receipt (R144). -/
theorem getElem?_eq_getLsbD_rawOf {levels : List Level} (hlen : levels.length = 16) {k : Nat} (hk : k < 16) :
    levels[k]? = some ((rawOf levels).getLsbD k) := by
  rw [rawOf, getLsbD_foldl_insertSample levels 0#16 hlen.le k hk]
  simp [hlen, List.getElem?_eq_getElem (show k < levels.length by omega)]

/-- Settles O25: outside, the guard; inside, the levels are the environment's answers, the listed ones first. -/
theorem readWordReturnsTheSampledLevels : Obligations.ReadWordReturnsTheSampledLevels := by
  intro f ig s
  refine ⟨exec_guarded_outside rfl, fun hpm => ?_⟩
  have hlen : (answeredLevels s).length = 16 := takeLevels_length 16 _ _
  refine ⟨answeredLevels s, rawOf (answeredLevels s), readEvents (answeredLevels s), hlen,
    fun k b hk hb => takeLevels_getElem? 16 _ _ k b hk hb, fun k hk => getElem?_eq_getLsbD_rawOf hlen hk, rfl, ?_, ?_,
    exec_readWord_inside hpm f ig⟩
  · simp [readEvents, CMD_length, pulsesIn_length, hlen]
  · simp [readEvents, minDuration_append, minDuration_CMD, minDuration_pulsesIn, minDuration, hlen]

/-- With the clock low, a command's trace decodes to its six bits (R92, R93). -/
theorem wireBits_CMD (c : CmdSel) (rest : List Event) :
    wireBits false (CMD c ++ rest) = (commandBits c).map .sent ++ wireBits false rest :=
  wireBits_pulsesOut _ rest

theorem wireBits_readEvents (levels : List Level) :
    wireBits false (readEvents levels) = (commandBits .readDataPm).map .sent ++ levels.map .received := by
  simp [readEvents, wireBits_CMD, wireBits_pulsesIn, wireBits]

/-- Settles O33: the events of each operation, decoded part by part. -/
theorem traceDecodesToCommandAndFrame : Obligations.TraceDecodesToCommandAndFrame := by
  refine fun s hpm => ⟨fun w => ?_, fun f ig => ?_, fun ig => ?_, fun ig => ?_, fun ig => ?_⟩
  · exact ⟨_, _, exec_writeWord_inside hpm w, rfl, wireBits_writeEvents w⟩
  · exact ⟨_, _, answeredLevels s, exec_readWord_inside hpm f ig, rfl, takeLevels_length 16 _ _, wireBits_readEvents _⟩
  · exact ⟨_, _, exec_incAddress_inside hpm ig, rfl, by simp [wireBits_CMD, wireBits]⟩
  · exact ⟨_, _, exec_burn_inside hpm ig, rfl, by simp [wireBits_CMD, wireBits]⟩
  · exact ⟨_, _, exec_erase_inside hpm ig, rfl, by simp [wireBits_CMD, wireBits]⟩

end Sys2Proof.Machine

/-! PROOF (O37, O41, O47). Construction, the reset input and the pins (00_scope R7, 10_state R24, R38, R50,
60_exceptions R266, 70_reset_and_hazards R290, R293). -/

namespace Sys2Proof.Safety

open Sys2Proof.Machine

/-- The initial state is a boundary in `Unpowered` for every permitted length (R27, R50). -/
theorem atMode_initial {ml : Nat} {params : Params} (h : memoryLengthOk params.locW ml = true) :
    AtMode .unpowered (State.initial ml params) := by
  have ⟨_, hpos, _⟩ := of_decide_eq_true h
  exact ⟨⟨⟨rfl, rfl⟩, ⟨nofun, h, le_rfl, by simp [State.initial]; omega⟩, rfl⟩, rfl⟩

/-- Settles O37: construction gives the initial state, or refuses. -/
theorem constructionGivesTheResetState : Obligations.ConstructionGivesTheResetState := by
  refine ⟨fun ml params h => by simp [State.construct, h], fun ml params h => ?_, Config.resetMemoryLength, rfl⟩
  exact ⟨State.initial ml params, by rw [State.construct, if_pos h], rfl, rfl, rfl, rfl, rfl, rfl, rfl, rfl, rfl, rfl,
    atMode_initial h⟩

/-- Settles O41: the reset input sees whether the engine is idle in `Unpowered`. -/
theorem resetStepsOnlyFromIdleUnpowered : Obligations.ResetStepsOnlyFromIdleUnpowered := by
  intro inp s hrst
  have hclock : clock inp s = applyReset s := by rw [clock, if_pos hrst]
  rw [hclock]
  refine ⟨fun hbusy hmode => ?_, fun h => ?_⟩
  · have hidle : idleUnpowered s = true := by simp [idleUnpowered, hbusy, hmode]
    exact ⟨_, if_pos hidle, rfl, rfl, rfl, rfl, rfl, rfl, rfl, rfl, rfl, rfl⟩
  · have hnot : idleUnpowered s = false := by
      obtain h | h := h <;> simp [idleUnpowered, h]
    rw [applyReset, hnot]
    rfl

/-- Settles O47: the pins are the lines, and the lines of a boundary are those of its mode. -/
theorem pinsFollowTheMode : Obligations.PinsFollowTheMode := by
  intro s
  have hpins {m : Mode} (h : AtMode m s) : (pins s).vddEn = (m != .unpowered) ∧
      (pins s).vppEn = (m == .programmingMode) ∧
      clkPin s.lines = (if m == .programmingMode then some false else none) ∧
      datPin s.lines = (if m == .programmingMode then some false else none) := by
    simp only [pins, h.lines, boundaryLines, h.hasPower, h.inProgrammingMode, clkPin, datPin]
    cases m <;> decide
  exact ⟨hpins, hpins, hpins⟩

end Sys2Proof.Safety

/-! PROOF (O43, O44, O46). The clocked layer (30_encoding R101, R104, 40_timing_table R121, R135): what one cycle does, the
waits, the handshake, and that every operation comes to its end. -/

namespace Sys2Proof.Machine

open Safety (concluded Idle)

/-! ### One cycle -/

@[simp] theorem clockRun_nil (s : State) : clockRun [] s = s := rfl

@[simp] theorem clockRun_cons (inp : PortsIn) (ins : List PortsIn) (s : State) :
    clockRun (inp :: ins) s = clockRun ins (clockRunning inp s) := rfl

section
variable {inp : PortsIn} {s : State}

theorem clockRunning_of_idle (h : s.sequencer.busy = false) : clockRunning inp s = clockIdle inp s := by
  simp [clockRunning, h]

theorem clockRunning_of_busy (h : s.sequencer.busy = true) : clockRunning inp s = clockBusy inp s := by
  simp [clockRunning, h]

/-- A busy engine waits while `DLYCNT` is not zero (R121). -/
theorem clockRunning_waiting (h : s.sequencer.busy = true) (hdly : s.datapath.dlycnt ≠ 0#15) :
    clockRunning inp s = countTick inp.tickUs s := by
  rw [clockRunning_of_busy h, clockBusy, if_neg hdly]

/-- A busy engine that waits for nothing performs the head of its step list. -/
theorem clockRunning_ready {it : Item} {rest : List Item} (h : s.sequencer.busy = true) (hdly : s.datapath.dlycnt = 0#15)
    (hseq : s.sequencer.seq = it :: rest) : clockRunning inp s = clockItem inp.datI it rest s := by
  rw [clockRunning_of_busy h, clockBusy, if_pos hdly, hseq]

theorem clockItem_whenDo (datI : Level) (c : Cond) (body : List Prim) (rest : List Item) (s : State) :
    clockItem datI (.whenDo c body) rest s =
      setSeq (if condHolds c s then body.map .prim ++ rest else rest) s := rfl

theorem clockItem_returnWhen (datI : Level) (c : Cond) (r : Reply) (rest : List Item) (s : State) :
    clockItem datI (.returnWhen c r) rest s = if condHolds c s then setSeq [] (reply r s) else setSeq rest s := rfl

@[simp] theorem clockPrim_sequencer (datI : Level) (p : Prim) (s : State) :
    (clockPrim datI p s).sequencer = s.sequencer := by
  cases p <;> rfl

/-- An assigned request at the port of an idle engine is accepted, and nothing else happens in that cycle (R101). -/
theorem clockRunning_accepts {i : Instr} {items : List Item} (h : s.sequencer.busy = false)
    (hvalid : inp.reqValid = true) (hdec : decodeRequest (requestWord inp) = .ok i) (hsteps : hostSteps i = some items) :
    clockRunning inp s = beginOp items s := by
  rw [clockRunning_of_idle h, clockIdle, if_pos hvalid, hdec]
  simp only [hsteps]

/-- A reserved request at the port of an idle engine is answered in the same cycle (R104). -/
theorem clockRunning_rejects (h : s.sequencer.busy = false) (hvalid : inp.reqValid = true)
    (hres : requestAssigned (requestWord inp) = false) : clockRunning inp s = reply .fail (accept s) := by
  rw [clockRunning_of_idle h, clockIdle, if_pos hvalid, decodeRequest_of_reserved hres]

end

/-! ### The waits -/

/-- Counting `k` ticks after one is counting `k + 1`. -/
theorem sub_one_sub_ofNat (n : BitVec 15) (k : Nat) : n - 1#15 - BitVec.ofNat 15 k = n - BitVec.ofNat 15 (k + 1) := by
  apply BitVec.eq_of_toNat_eq
  simp only [BitVec.toNat_sub, BitVec.toNat_ofNat]
  omega

/-- Settles O43: each cycle of the wait counts its tick, if it brings one, and the last tick is still to come. -/
theorem clockedWaitIsHonoured : Obligations.ClockedWaitIsHonoured := by
  intro ins
  induction ins with
  | nil => intro s _ _; simp
  | cons inp ins ih =>
    intro s hbusy hticks
    have hdly : s.datapath.dlycnt ≠ 0#15 := by
      intro h
      simp [h] at hticks
    rw [clockRun_cons, clockRunning_waiting hbusy hdly]
    cases htick : inp.tickUs with
    | false =>
      rw [List.filter_cons_of_neg (by simp [htick])] at hticks ⊢
      exact ih s hbusy hticks
    | true =>
      rw [List.filter_cons_of_pos (by simp [htick]), List.length_cons] at hticks ⊢
      have hpred : (s.datapath.dlycnt - 1#15).toNat = s.datapath.dlycnt.toNat - 1 := by bv_omega
      refine (ih (countTick true s) hbusy (by simp only [countTick, if_true, hpred]; omega)).trans ?_
      simp only [countTick, if_true, sub_one_sub_ofNat]

/-! ### The handshake -/

/-- Settles O44: a busy cycle looks at `DAT_I` and the tick only; an idle one accepts or rejects the request. -/
theorem portHandshake : Obligations.PortHandshake := by
  refine ⟨fun inp s v op arg hbusy => ?_, fun inp s hidle hvalid => ⟨fun hassigned => ?_, fun hres => ?_⟩⟩
  · rw [clockRunning_of_busy hbusy, clockRunning_of_busy hbusy]
    rfl
  · obtain ⟨i, hdec⟩ := (wellFormed_iff_decode (.request (requestWord inp))).1 hassigned
    obtain ⟨items, hsteps⟩ := Safety.hostSteps_of_decodeRequest hdec
    rw [clockRunning_accepts hidle hvalid hdec hsteps]
    exact ⟨rfl, rfl⟩
  · rw [clockRunning_rejects hidle hvalid hres, reply_eq_concluded]
    rfl

/-! ### The end of an operation -/

/-- With a tick in every cycle from `s` on, there is a cycle in which the engine is idle and the response announced. -/
def Finishes (tick : PortsIn) (s : State) : Prop :=
  ∃ n, (clockRun (List.replicate n tick) s).sequencer.busy = false ∧
    (clockRun (List.replicate n tick) s).response.pending = true

/-- Every busy engine with these items to do finishes. -/
def Completes (tick : PortsIn) (items : List Item) : Prop :=
  ∀ s : State, s.sequencer.busy = true → s.sequencer.seq = items → Finishes tick s

section
variable {tick : PortsIn} {items rest : List Item}

theorem finishes_of_cycle {s : State} (h : Finishes tick (clockRunning tick s)) : Finishes tick s := by
  obtain ⟨n, hn⟩ := h
  exact ⟨n + 1, hn⟩

/-- The reply ends the operation (R101). -/
theorem finishes_reply (r : Reply) (s : State) : Finishes tick (setSeq [] (reply r s)) := ⟨0, rfl, rfl⟩

variable (htick : tick.tickUs = true)
include htick

/-- Every wait ends, so it is enough to look at the cycle in which the head of the step list is performed (R121). -/
theorem completes_cons {it : Item} (h : ∀ s : State, s.sequencer.busy = true →
    Finishes tick (clockItem tick.datI it rest s)) : Completes tick (it :: rest) := by
  intro s hbusy hseq
  induction hk : s.datapath.dlycnt.toNat generalizing s with
  | zero =>
    apply finishes_of_cycle
    rw [clockRunning_ready hbusy (BitVec.eq_of_toNat_eq hk) hseq]
    exact h s hbusy
  | succ k ih =>
    have hdly : s.datapath.dlycnt ≠ 0#15 := by
      intro h0
      simp [h0] at hk
    apply finishes_of_cycle
    rw [clockRunning_waiting hbusy hdly, htick]
    refine ih _ hbusy hseq ?_
    simp only [countTick, if_true]
    bv_omega

theorem Completes.prim (hrest : Completes tick rest) (p : Prim) : Completes tick (.prim p :: rest) :=
  completes_cons htick fun s hbusy => hrest (setSeq rest (clockPrim tick.datI p s)) (by simp [hbusy]) rfl

theorem Completes.prims (hrest : Completes tick rest) (ps : List Prim) : Completes tick (ps.map .prim ++ rest) := by
  induction ps with
  | nil => exact hrest
  | cons p ps ih => exact ih.prim htick p

/-- Every returning step list comes to its return. -/
theorem completes_of_returns (h : returns items = true) : Completes tick items := by
  induction items with
  | nil => cases h
  | cons it rest ih =>
    cases it with
    | prim p => exact (ih h).prim htick p
    | command c => exact completes_cons htick fun s hbusy => ((ih h).prims htick (issueCommand c)) (setSeq _ s) hbusy rfl
    | whenDo c body =>
      refine completes_cons htick fun s hbusy => ?_
      rw [clockItem_whenDo]
      split
      · exact ((ih h).prims htick body) (setSeq _ s) hbusy rfl
      · exact ih h (setSeq rest s) hbusy rfl
    | returnWhen c r =>
      refine completes_cons htick fun s hbusy => ?_
      rw [clockItem_returnWhen]
      split
      · exact finishes_reply r s
      · exact ih h (setSeq rest s) hbusy rfl
    | ret r => exact completes_cons htick fun s _ => finishes_reply r s

end

/-- Settles O46: the accepted operation's step list returns. -/
theorem clockedOperationCompletes : Obligations.ClockedOperationCompletes := by
  intro s first tick i hidle hvalid hdec htick _
  obtain ⟨items, hsteps⟩ := Safety.hostSteps_of_decodeRequest hdec
  have hbusy : s.sequencer.busy = false := by rw [hidle.1]
  obtain ⟨n, hn⟩ := completes_of_returns htick (returns_of_hostSteps hsteps) (beginOp items s) rfl rfl
  refine ⟨n, ?_⟩
  rwa [clockRun_cons, clockRunning_accepts hbusy hvalid hdec hsteps]

end Sys2Proof.Machine

/-! PROOF (O45). The clocked layer refines the atomic one (20_memory R72, 60_exceptions R266): at each cycle the atomic
operation still to be done, for the levels still to be sampled, ends in the same state. -/

namespace Sys2Proof.Machine

open Safety (Idle isSample samplesIn levelsAtPin exec_of_hostSteps)

/-! ### The levels of a cycle -/

/-- The levels at the pin from this cycle on, `levels` being those of the later cycles. -/
def levelsFrom (inp : PortsIn) (s : State) (levels : List Level) : List Level :=
  if samplesIn inp s then inp.datI :: levels else levels

theorem levelsAtPin_cons (inp : PortsIn) (ins : List PortsIn) (s : State) :
    levelsAtPin (inp :: ins) s = levelsFrom inp s (levelsAtPin ins (clockRunning inp s)) := rfl

theorem samplesIn_of_trace {inp : PortsIn} {s : State} {events : List Event}
    (h : (clockRunning inp s).bench.trace = s.bench.trace ++ events) : samplesIn inp s = events.any isSample := by
  simp [samplesIn, h]

/-- A cycle without an event samples nothing. -/
theorem levelsFrom_of_trace_eq {inp : PortsIn} {s : State} (h : (clockRunning inp s).bench.trace = s.bench.trace)
    (levels : List Level) : levelsFrom inp s levels = levels := by
  rw [levelsFrom, samplesIn_of_trace (events := []) (by rw [h, List.append_nil])]
  rfl

/-! ### The atomic operation that is still to be done -/

/-- `s` as the atomic layer goes on from it: the wait over, the step list taken out, `levels` the answers to come. -/
def atomicView (levels : List Level) (s : State) : State :=
  { s with datapath.dlycnt := 0#15, sequencer := { busy := true, seq := [] }, bench.datIn := levels }

theorem condHolds_atomicView (levels : List Level) (c : Cond) (s : State) :
    condHolds c (atomicView levels s) = condHolds c s := by
  cases c <;> rfl

theorem atomicView_countTick (levels : List Level) (tick : Bool) (s : State) :
    atomicView levels (countTick tick s) = atomicView levels s := by
  cases tick <;> rfl

/-- A statement in its cycle does what it does at once, an `RD` with the level at the pin (R135, R266). -/
theorem applyPrim_atomicView {inp : PortsIn} {p : Prim} {rest : List Item} {s : State}
    (h : clockRunning inp s = setSeq rest (clockPrim inp.datI p s)) (levels : List Level) :
    applyPrim p (atomicView (levelsFrom inp s levels) s) = atomicView levels (clockPrim inp.datI p s) := by
  cases p
  case sampleBit =>
    have hsample : samplesIn inp s = true := by
      rw [samplesIn_of_trace (events := [.rd inp.datI]) (by rw [h]; rfl)]
      rfl
    rw [levelsFrom, if_pos hsample]
    rfl
  all_goals
    have hquiet : samplesIn inp s = false := by simp [samplesIn, h, clockPrim, applyPrim, isSample]
    rw [levelsFrom, hquiet]
    rfl

/-! ### One cycle of a busy engine -/

/-- What a cycle of a busy engine comes to: it goes on with the rest of the operation, or ends it without a sample. -/
inductive BusyCycle (inp : PortsIn) (s t : State) : Prop
  | continues (hbusy : t.sequencer.busy = true) (hret : returns t.sequencer.seq = true)
      (hperform : ∀ levels, perform s.sequencer.seq (atomicView (levelsFrom inp s levels) s) =
        perform t.sequencer.seq (atomicView levels t))
  | ends (hidle : t.sequencer.busy = false) (htrace : t.bench.trace = s.bench.trace)
      (hperform : ∀ levels, perform s.sequencer.seq (atomicView levels s) = { t with bench.datIn := levels })

/-- A cycle that adds no event goes on if what is left of the operation is what was left before it. -/
theorem BusyCycle.of_quiet {inp : PortsIn} {s : State} {items : List Item} (hrun : clockRunning inp s = setSeq items s)
    (hbusy : s.sequencer.busy = true) (hret : returns items = true)
    (hperform : ∀ levels, perform s.sequencer.seq (atomicView levels s) = perform items (atomicView levels s)) :
    BusyCycle inp s (clockRunning inp s) := by
  refine .continues (by rw [hrun]; exact hbusy) (by rw [hrun]; exact hret) fun levels => ?_
  rw [levelsFrom_of_trace_eq (by rw [hrun]; rfl), hrun]
  exact hperform levels

/-- The reply ends the operation, in the cycle as at once. -/
theorem BusyCycle.of_reply {inp : PortsIn} {s : State} {r : Reply} (hdly : s.datapath.dlycnt = 0#15)
    (hrun : clockRunning inp s = setSeq [] (reply r s))
    (hperform : ∀ levels, perform s.sequencer.seq (atomicView levels s) = reply r (atomicView levels s)) :
    BusyCycle inp s (clockRunning inp s) := by
  rw [hrun]
  refine .ends rfl rfl fun levels => ?_
  rw [hperform]
  simp [reply, atomicView, setSeq, ← hdly]

/-- What a cycle of a busy engine can do, by what it finds: a wait, or an item (R13, R121). -/
theorem busyCycle {inp : PortsIn} {s : State} (hbusy : s.sequencer.busy = true)
    (hret : returns s.sequencer.seq = true) : BusyCycle inp s (clockRunning inp s) := by
  by_cases hdly : s.datapath.dlycnt = 0#15
  case neg =>
    have hrun := clockRunning_waiting (inp := inp) hbusy hdly
    obtain ⟨hseq, htrace⟩ : (countTick inp.tickUs s).sequencer = s.sequencer ∧
        (countTick inp.tickUs s).bench.trace = s.bench.trace := by
      cases inp.tickUs <;> exact ⟨rfl, rfl⟩
    refine .continues (by rw [hrun, hseq, hbusy]) (by rw [hrun, hseq, hret]) fun levels => ?_
    rw [levelsFrom_of_trace_eq (by rw [hrun, htrace]), hrun, hseq, atomicView_countTick]
  case pos =>
    cases hseq : s.sequencer.seq with
    | nil => simp [hseq, returns] at hret
    | cons it rest =>
      have hrun := clockRunning_ready (inp := inp) hbusy hdly hseq
      rw [hseq] at hret
      cases it with
      | prim p =>
        refine .continues (by rw [hrun]; simpa [clockItem] using hbusy) (by rw [hrun]; exact hret) fun levels => ?_
        rw [hseq, perform, applyPrim_atomicView hrun, hrun]
        rfl
      | command c =>
        exact .of_quiet hrun hbusy (by simpa [returns] using hret) fun levels => by
          rw [hseq, perform, perform_prims]
      | whenDo c body =>
        rw [clockItem_whenDo] at hrun
        cases hc : condHolds c s with
        | true =>
          rw [if_pos hc] at hrun
          exact .of_quiet hrun hbusy (by simpa [returns] using hret) fun levels => by
            rw [hseq, perform, condHolds_atomicView, if_pos hc, perform_prims]
        | false =>
          rw [hc] at hrun
          exact .of_quiet hrun hbusy hret fun levels => by
            rw [hseq, perform, condHolds_atomicView, hc]; rfl
      | returnWhen c r =>
        rw [clockItem_returnWhen] at hrun
        cases hc : condHolds c s with
        | true =>
          rw [if_pos hc] at hrun
          exact .of_reply hdly hrun fun levels => by rw [hseq, perform, condHolds_atomicView, if_pos hc]
        | false =>
          rw [hc] at hrun
          exact .of_quiet hrun hbusy hret fun levels => by
            rw [hseq, perform, condHolds_atomicView, hc]; rfl
      | ret r => exact .of_reply hdly hrun fun levels => by rw [hseq, perform]

/-! ### To the first idle cycle -/

/-- Clocked from a busy state to its first idle cycle, the engine ends as the atomic layer does from there. -/
theorem perform_atomicView_of_clockRun {ins : List PortsIn} {s : State} (hbusy : s.sequencer.busy = true)
    (hret : returns s.sequencer.seq = true)
    (hwhile : ∀ k, k < ins.length → (clockRun (ins.take k) s).sequencer.busy = true)
    (hend : (clockRun ins s).sequencer.busy = false) :
    perform s.sequencer.seq (atomicView (levelsAtPin ins s) s) = { clockRun ins s with bench.datIn := [] } := by
  induction ins generalizing s with
  | nil => simp [hbusy] at hend
  | cons inp ins ih =>
    have hlater : ∀ k, k < ins.length → (clockRun (ins.take k) (clockRunning inp s)).sequencer.busy = true :=
      fun k hk => hwhile (k + 1) (Nat.succ_lt_succ hk)
    rw [levelsAtPin_cons, clockRun_cons]
    cases busyCycle (inp := inp) hbusy hret with
    | continues hbusy' hret' hperform => rw [hperform, ih hbusy' hret' hlater hend]
    | ends hidle htrace hperform =>
      cases ins with
      | nil => rw [levelsFrom_of_trace_eq htrace, hperform]; rfl
      | cons inp' ins =>
        have hbusy' := hlater 0 (by simp)
        simp [hidle] at hbusy'

/-! ### The listed answers are not touched -/

theorem clockItem_datIn (datI : Level) (it : Item) (rest : List Item) (s : State) :
    (clockItem datI it rest s).bench.datIn = s.bench.datIn := by
  cases it with
  | prim p => cases p <;> rfl
  | command c => rfl
  | whenDo c body => rfl
  | returnWhen c r => rw [clockItem_returnWhen]; split <;> rfl
  | ret r => rfl

theorem clockRunning_datIn (inp : PortsIn) (s : State) : (clockRunning inp s).bench.datIn = s.bench.datIn := by
  cases hbusy : s.sequencer.busy with
  | true =>
    rw [clockRunning_of_busy hbusy, clockBusy]
    split
    · split
      · rfl
      · exact clockItem_datIn ..
    · cases inp.tickUs <;> rfl
  | false =>
    rw [clockRunning_of_idle hbusy, clockIdle]
    split
    · split
      · split <;> rfl
      · rfl
    · rfl

theorem clockRun_datIn (ins : List PortsIn) (s : State) : (clockRun ins s).bench.datIn = s.bench.datIn := by
  induction ins generalizing s with
  | nil => rfl
  | cons inp ins ih => rw [clockRun_cons, ih, clockRunning_datIn]

/-- Settles O45: after the acceptance the atomic operation is all still to be done, and the levels are those at the pin. -/
theorem clockedOperationRefinesExec : Obligations.ClockedOperationRefinesExec := by
  intro s first ins i hidle hvalid hdec hwhile hend
  obtain ⟨items, hsteps⟩ := Safety.hostSteps_of_decodeRequest hdec
  obtain ⟨hseq, hdly⟩ := hidle
  have hrun : clockRunning first s = beginOp items s :=
    clockRunning_accepts (by rw [hseq]) hvalid hdec hsteps
  have hlevels : levelsAtPin (first :: ins) s = levelsAtPin ins (beginOp items s) := by
    rw [← hrun]
    exact levelsFrom_of_trace_eq (by rw [hrun]; rfl) _
  rw [clockRun_cons, hrun] at hend ⊢
  simp only [clockRun_cons, hrun] at hwhile
  rw [hlevels]
  set levels := levelsAtPin ins (beginOp items s)
  set u : State := { s with bench.datIn := levels }
  have hview : atomicView levels (beginOp items s) = beginOp [] u := by
    simp [u, atomicView, beginOp, accept, setSeq, ← hdly]
  have hseq_u : (perform items u).sequencer.seq = [] := (perform_seq items u).trans (congrArg Sequencer.seq hseq)
  have hperform : perform items u = { clockRun ins (beginOp items s) with bench.datIn := [] } := by
    calc perform items u
      _ = setSeq [] (perform items u) := (setSeq_of_seq hseq_u).symm
      _ = perform items (atomicView levels (beginOp items s)) := by
        rw [hview, perform_beginOp (returns_of_hostSteps hsteps)]
      _ = _ := perform_atomicView_of_clockRun (s := beginOp items s) rfl (returns_of_hostSteps hsteps) hwhile hend
  refine ⟨_, (exec_of_hostSteps hsteps u).trans (congrArg _ hperform), rfl, ?_⟩
  have hdat : (clockRun ins (beginOp items s)).bench.datIn = s.bench.datIn := clockRun_datIn ins (beginOp items s)
  rw [← hdat]

end Sys2Proof.Machine

/-! PROOF (O32). The round trip of a word through the test double `LoopTarget` (95_test_vectors V14 and Part 3): what it
makes of a command, of a write frame and of a read frame. -/

namespace Sys2Proof.Safety

open Sys2Proof.Machine

/-- `LoopTarget` after events seen from `t` on. -/
def LoopTarget.watch (t : LoopTarget) (events : List Event) : LoopTarget := events.foldl LoopTarget.see t

theorem LoopTarget.after_append (a b : List Event) : LoopTarget.after (a ++ b) = (LoopTarget.after a).watch b := by
  simp [LoopTarget.after, LoopTarget.watch]

theorem LoopTarget.watch_append (t : LoopTarget) (a b : List Event) : t.watch (a ++ b) = (t.watch a).watch b := by
  simp [LoopTarget.watch]

/-- With the clock low, an output pulse is a level on the data line and a falling edge (30_encoding R92). -/
theorem LoopTarget.watch_P {t : LoopTarget} (hclk : t.clk = false) (b : Level) :
    t.watch (P b) = LoopTarget.fall { t with dat := b } := by
  obtain ⟨clk, dat, bits, phase, latch⟩ := t
  obtain rfl : clk = false := hclk
  rfl

/-- With the clock low, an input pulse is a falling edge. -/
theorem LoopTarget.watch_Q {t : LoopTarget} (hclk : t.clk = false) (v : Level) : t.watch (Q v) = t.fall := by
  obtain ⟨clk, dat, bits, phase, latch⟩ := t
  obtain rfl : clk = false := hclk
  rfl

theorem watch_pulsesOut_cons {t : LoopTarget} (hclk : t.clk = false) (b : Level) (bs : List Level) :
    t.watch (pulsesOut (b :: bs)) = (LoopTarget.fall { t with dat := b }).watch (pulsesOut bs) := by
  rw [← LoopTarget.watch_P hclk, ← LoopTarget.watch_append]
  rfl

/-! ### Collecting levels -/

/-- In this phase `LoopTarget` collects levels until `limit` of them are recorded. -/
def CollectsUpTo (limit : Nat) (phase : LoopPhase) : Prop :=
  ∀ t : LoopTarget, t.phase = phase → t.bits.length < limit → t.fall = { t with bits := t.bits ++ [t.dat] }

theorem collectsUpTo_command : CollectsUpTo 5 .command := by
  intro t hphase hlen
  simp [LoopTarget.fall, hphase, hlen.ne]

theorem collectsUpTo_writeFrame : CollectsUpTo 15 .writeFrame := by
  intro t hphase hlen
  simp [LoopTarget.fall, hphase, hlen.ne]

/-- The pulse after the last that is collected finds all levels before it recorded. -/
theorem watch_pulsesOut_of_collects {limit : Nat} {t : LoopTarget} (hclk : t.clk = false)
    (hcollects : CollectsUpTo limit t.phase) (bs : List Level) (b : Level) (hlen : t.bits.length + bs.length = limit) :
    t.watch (pulsesOut (bs ++ [b])) = LoopTarget.fall { t with dat := b, bits := t.bits ++ bs } := by
  induction bs generalizing t with
  | nil => rw [List.nil_append, watch_pulsesOut_cons hclk, List.append_nil]; rfl
  | cons c bs ih =>
    rw [List.length_cons] at hlen
    have hfall := hcollects { t with dat := c } rfl (show t.bits.length < limit by omega)
    rw [List.cons_append, watch_pulsesOut_cons hclk, hfall,
      ih (t := { t with dat := c, bits := t.bits ++ [c] }) hclk hcollects (by simp; omega)]
    simp

/-- `LoopTarget` between commands, the clock low. -/
def LoopTarget.ready (dat : Level) (latch : BitVec 14) : LoopTarget :=
  { clk := false, dat := dat, bits := [], phase := .command, latch := latch }

/-- At the sixth pulse of a command its first five bits are recorded. -/
theorem watch_CMD (dat : Level) (latch : BitVec 14) {c : CmdSel} {bs : List Level} {b : Level}
    (hbits : commandBits c = bs ++ [b]) (hlen : bs.length = 5) : (LoopTarget.ready dat latch).watch (CMD c) =
      LoopTarget.fall { LoopTarget.ready b latch with bits := bs } := by
  rw [CMD, pulsesOut, hbits]
  exact watch_pulsesOut_of_collects rfl collectsUpTo_command bs b (by simp [LoopTarget.ready, hlen])

/-- The start of a write frame follows its command. -/
theorem watch_loadDataPm (dat : Level) (latch : BitVec 14) :
    (LoopTarget.ready dat latch).watch (CMD .loadDataPm) =
      { clk := false, dat := false, bits := [], phase := .writeFrame, latch := latch } := by
  rw [watch_CMD dat latch (bs := [false, true, false, false, false]) (b := false) rfl rfl]
  simp [LoopTarget.fall, LoopTarget.ready, bitsValue]

/-- `LoopTarget` at the start of a read frame. -/
def LoopTarget.reading (latch : BitVec 14) : LoopTarget :=
  { clk := false, dat := false, bits := [], phase := .readFrame 16, latch := latch }

/-- The start of a read frame follows its command; neither the direction of the line nor the wait shows. -/
theorem watch_readCommand (dat : Level) (latch : BitVec 14) :
    (LoopTarget.ready dat latch).watch (CMD .readDataPm ++ [.dir .dat .inp, .dly 5]) = LoopTarget.reading latch := by
  rw [LoopTarget.watch_append, watch_CMD dat latch (bs := [false, false, true, false, false]) (b := false) rfl rfl]
  simp [LoopTarget.fall, LoopTarget.ready, LoopTarget.reading, bitsValue, LoopTarget.watch, LoopTarget.see]

/-! ### The write frame -/

/-- The value of the low bits of a word, read least significant first. -/
theorem bitsValue_lsbFirst (n : Nat) (v : Word) : bitsValue (lsbFirst n v) = v.toNat % 2 ^ n := by
  induction n generalizing v with
  | zero => simp [lsbFirst, bitsValue, Nat.mod_one]
  | succ n ih =>
    have hbit : (presentedLevel v).toNat = v.toNat % 2 := by
      rw [presentedLevel, BitVec.getLsbD, Nat.toNat_testBit, pow_zero, Nat.div_one]
    rw [lsbFirst_succ, bitsValue, ih, hbit, shiftOne, BitVec.toNat_ushiftRight, Nat.shiftRight_eq_div_pow, pow_one,
      pow_succ', Nat.mod_mul]

/-- A write frame latches the fourteen bits of the word (R66). -/
theorem latch_of_frameBits (w : Word) : BitVec.ofNat 14 (bitsValue (frameBits w) / 2) = w.setWidth 14 := by
  have hshift : (frame w).toNat / 2 = w.toNat % 2 ^ 14 := by
    have h := congrArg BitVec.toNat (shiftOne_frame w)
    rwa [toNat_and_mask, shiftOne, BitVec.toNat_ushiftRight, Nat.shiftRight_eq_div_pow, pow_one] at h
  apply BitVec.eq_of_toNat_eq
  rw [← lsbFirst_frame, bitsValue_lsbFirst, Nat.mod_eq_of_lt (frame w).isLt, hshift, BitVec.toNat_ofNat, Nat.mod_mod,
    BitVec.toNat_setWidth]

/-- A write leaves its word in the latch. -/
theorem watch_writeEvents (dat : Level) (latch : BitVec 14) (w : Word) :
    (LoopTarget.ready dat latch).watch (writeEvents w) = LoopTarget.ready false (w.setWidth 14) := by
  have hframe : LoopTarget.watch { clk := false, dat := false, bits := [], phase := .writeFrame, latch := latch }
      (pulsesOut (frameBits w)) = LoopTarget.ready false (w.setWidth 14) := by
    rw [← latch_of_frameBits]
    exact watch_pulsesOut_of_collects rfl collectsUpTo_writeFrame ([false] ++ lsbFirst 14 w) false (by simp)
  rw [writeEvents, LoopTarget.watch_append, LoopTarget.watch_append, LoopTarget.watch_append, watch_loadDataPm]
  exact congrArg (fun t => LoopTarget.watch t [.wr .dat false]) hframe

/-! ### The read frame -/

theorem LoopTarget.answers_length (t : LoopTarget) : t.answers.length = 16 := by
  simp [LoopTarget.answers]

/-- The sixteen levels answered are the frame of a word whose low bits the latch holds. -/
theorem LoopTarget.answers_of_latch {t : LoopTarget} {w : Word} (h : t.latch = w.setWidth 14) :
    t.answers = frameBits w := by
  have hbits : (List.range 14).map t.latch.getLsbD = lsbFirst 14 w :=
    List.map_congr_left fun k hk => by simp [h, List.mem_range.1 hk]
  rw [LoopTarget.answers, hbits, frameBits]

theorem LoopTarget.answersAll_append (t : LoopTarget) (a b : List Event) :
    t.answersAll (a ++ b) = (t.answersAll a && (t.watch a).answersAll b) := by
  induction a generalizing t with
  | nil => rfl
  | cons e a ih =>
    simp only [List.cons_append, LoopTarget.answersAll, ih, Bool.and_assoc]
    rfl

/-- With the clock low, an input pulse is answered by the level that is presented. -/
theorem LoopTarget.answersAll_Q {t : LoopTarget} {v : Level} (hclk : t.clk = false) (h : t.presented = some v) :
    t.answersAll (Q v) = true := by
  have hrise : LoopTarget.presented { t with clk := true } = some v := h
  simp [LoopTarget.answersAll, Q, LoopTarget.see, hclk, hrise]

/-- In a read frame with `n` pulses to go, or after the last of them. -/
def readPhase (n : Nat) : LoopPhase := if n = 0 then .command else .readFrame n

theorem LoopTarget.fall_readPhase {t : LoopTarget} {n : Nat} (h : t.phase = readPhase (n + 1)) :
    t.fall = { t with phase := readPhase n } := by
  have hphase : t.phase = .readFrame (n + 1) := h
  cases n <;> simp [LoopTarget.fall, hphase, readPhase]

/-- From the pulse with `n` to go, a read frame answers the last `n` levels, and commands are collected after it. -/
theorem answersAll_readFrame {n : Nat} (hn : n ≤ 16) {t : LoopTarget} (hclk : t.clk = false)
    (hphase : t.phase = readPhase n) :
    t.answersAll (pulsesIn (t.answers.drop (16 - n))) = true ∧
      t.watch (pulsesIn (t.answers.drop (16 - n))) = { t with phase := .command } := by
  induction n generalizing t with
  | zero =>
    rw [List.drop_eq_nil_of_le t.answers_length.le]
    exact ⟨rfl, congrArg (fun p => { t with phase := p }) hphase⟩
  | succ n ih =>
    have hlt : 16 - (n + 1) < t.answers.length := by rw [t.answers_length]; omega
    have hpresented : t.presented = some t.answers[16 - (n + 1)] := by
      have hread : t.phase = .readFrame (n + 1) := hphase
      simp [LoopTarget.presented, hread]
    obtain ⟨hanswers, hwatch⟩ := ih (by omega) (t := { t with phase := readPhase n }) hclk rfl
    rw [List.drop_eq_getElem_cons hlt, show 16 - (n + 1) + 1 = 16 - n by omega,
      show ∀ v l, pulsesIn (v :: l) = Q v ++ pulsesIn l from fun _ _ => rfl, LoopTarget.answersAll_append,
      LoopTarget.watch_append, LoopTarget.answersAll_Q hclk hpresented, LoopTarget.watch_Q hclk,
      LoopTarget.fall_readPhase hphase]
    exact ⟨hanswers, hwatch⟩

/-- The read frame after a write of `w`: each of the sixteen samples is answered, and commands are collected after it. -/
theorem reading_readFrame (w : Word) :
    (LoopTarget.reading (w.setWidth 14)).answersAll (pulsesIn (frameBits w) ++ [.dir .dat .out]) = true ∧
      ((LoopTarget.reading (w.setWidth 14)).watch (pulsesIn (frameBits w) ++ [.dir .dat .out])).phase = .command := by
  obtain ⟨hall, hwatch⟩ := answersAll_readFrame le_rfl (t := LoopTarget.reading (w.setWidth 14)) rfl rfl
  rw [Nat.sub_self, List.drop_zero, LoopTarget.answers_of_latch rfl] at hall hwatch
  rw [LoopTarget.answersAll_append, LoopTarget.watch_append, hall, hwatch]
  exact ⟨rfl, rfl⟩

/-- Sampling the frame of a word in the order of the wire gives the framed word (R144). -/
theorem rawOf_frameBits (w : Word) : rawOf (frameBits w) = frame w := by
  rw [← lsbFirst_frame, rawOf_lsbFirst]

/-- Settles O32: the write leaves the word in the latch, the command of the read starts a read frame, and the sixteen
levels of the frame are sampled as the framed word. -/
theorem loopTargetRoundTrip : Obligations.LoopTargetRoundTrip := by
  intro w f ig s hpm hphase hbits hclk
  have hstart : LoopTarget.after s.bench.trace = LoopTarget.ready (LoopTarget.after s.bench.trace).dat
      (LoopTarget.after s.bench.trace).latch := by
    rw [LoopTarget.ready, ← hphase, ← hbits, ← hclk]
  have hwrite := exec_writeWord_inside hpm w
  set t := concluded (writeEvents w) true 0x0000#16 (afterSending .loadDataPm s)
  have hseen : LoopTarget.after (t.bench.trace ++ (CMD .readDataPm ++ [.dir .dat .inp, .dly 5])) =
      LoopTarget.reading (w.setWidth 14) := by
    rw [show t.bench.trace = s.bench.trace ++ writeEvents w from rfl, LoopTarget.after_append, LoopTarget.after_append,
      hstart, watch_writeEvents, watch_readCommand]
  obtain ⟨hanswers, hafter⟩ := reading_readFrame w
  rw [← hseen, ← LoopTarget.after_append] at hafter
  have hread := exec_readWord_inside (s := { t with bench.datIn := frameBits w }) hpm f ig
  rw [answeredLevels_of_datIn (frameBits_length w) rfl, rawOf_frameBits, deframe_frame] at hread
  have htrace : t.bench.trace ++ readEvents (frameBits w) = t.bench.trace ++
      (CMD .readDataPm ++ [.dir .dat .inp, .dly 5]) ++ (pulsesIn (frameBits w) ++ [.dir .dat .out]) := by
    simp [readEvents]
  rw [← htrace] at hafter
  exact ⟨t, _, CMD .readDataPm, frameBits w, _, hwrite, hread, htrace, hseen.symm, rfl, rfl,
    (LoopTarget.answers_of_latch rfl).symm, hanswers, hafter, rfl⟩

end Sys2Proof.Safety
